-- ==== Sys2Proof/Word.lean ====
section
/-! DEFINITION. The widths of `wide_multiply_64` (rule R5) and the two records that cross its ports.
Bit 0 of every bit vector is the least significant bit (rules R9, R21). -/

namespace Sys2Proof

/-- The 64-bit value of an operand or result port (`XLEN`, rules R5 and R11). -/
abbrev Word := BitVec 64

/-- The 32-bit half of a `Word`, the operand of `MULO32` and one partial product
(`HW` and `PW`, rule R5). -/
abbrev HalfWord := BitVec 32

/-- The 16-bit quarter of a `Word`, the widest multiplier operand (`QW`, rule R5). -/
abbrev QuarterWord := BitVec 16

/-- The operation select `req_op` (rules R11 and R33). -/
abbrev OpCode := BitVec 2

/-- The request word `REQ`, 130 bits (rule R31). -/
abbrev RequestWord := BitVec 130

/-- The response word `RSP`, 65 bits (rule R32). -/
abbrev ResponseWord := BitVec 65

/-- One request: the fields `req.op`, `req.a`, `req.b`, sampled together (rules R9, R23). -/
structure Request where
  /-- The operation select. -/
  op : OpCode
  /-- The first operand. -/
  a : Word
  /-- The second operand. -/
  b : Word
deriving DecidableEq, Repr

/-- One response: the fields `rsp.r` and `rsp.v` (rules R9, R14). The flag is one bit, hence a
truth value: 0 is `false`, 1 is `true` (rule R36). -/
structure Response where
  /-- The result. -/
  r : Word
  /-- The overflow flag. -/
  v : Bool
deriving DecidableEq, Repr

end Sys2Proof
end

