-- ==== Sys2Proof/Config.lean ====
section
/-! DEFINITION. The constants of rules R5 and R6 and the operation-select codes of rule R33.
`LATENCY` is an open parameter (rule R96): `latencyReference` is its reference value, and a state
carries the value of its own implementation as the length of its pipeline. There is no free value:
every response of a defined operation is fully specified (`93_implementation_defined.md`). -/

namespace Sys2Proof

/-- `MIN(W)` as an integer, `-2^(W-1)` (rule R5). -/
def Config.minInt (W : Nat) : Int := -(2 ^ (W - 1) : Int)

/-- `MAX(W)` as an integer, `2^(W-1) - 1` (rule R5). -/
def Config.maxInt (W : Nat) : Int := (2 ^ (W - 1) : Int) - 1

/-- `MINW`, the bit pattern of `MIN(W)`: `1` followed by `W-1` zeros (rule R5). -/
def Config.minPattern (W : Nat) : BitVec W := BitVec.ofNat W (2 ^ (W - 1))

/-- `MAXW`, the bit pattern of `MAX(W)`: `0` followed by `W-1` ones (rule R5). -/
def Config.maxPattern (W : Nat) : BitVec W := BitVec.ofNat W (2 ^ (W - 1) - 1)

/-- The reference value of `LATENCY`: a combinational block (rules R6, R90, R96). -/
def Config.latencyReference : Nat := 0

/-- The three operations of the block; there are no others (rules R3, R4). -/
inductive Op where
  /-- `wide_mul_u64`. -/
  | wmul64
  /-- `mul_overflow_i32`. -/
  | mulo32
  /-- `mul_overflow_i64`. -/
  | mulo64
deriving DecidableEq, Repr

/-- The operation-select code of an operation (rule R33). The code is the spec's own decision D3
(UNVERIFIED for other hardware, unsafe there: log entry 15). -/
def Op.code : Op → OpCode
  | .wmul64 => 0b00#2
  | .mulo32 => 0b01#2
  | .mulo64 => 0b10#2

end Sys2Proof
end

