-- ==== Sys2Proof/Machine/Flags.lean ====
section
/-! DEFINITION. The one flag of the block, the overflow flag `rsp.v`. It is a field of the response
and is never stored (rules R14, R36). -/

namespace Sys2Proof.Machine

/-- The overflow predicate of a checked multiply: the exact integer lies outside
`[MIN(W), MAX(W)]`, on either side (rule R61). -/
def outOfRange (W : Nat) (E : Int) : Bool :=
  decide (E < Config.minInt W) || decide (Config.maxInt W < E)

/-- `WMUL64` never reports overflow: its flag is the constant 0 (rules R36, R54). -/
def wideFlag : Bool := false

end Sys2Proof.Machine
end

