-- ==== Sys2Proof/Machine/Operands.lean ====
section
/-! DEFINITION. How the operand ports are read and how a result is placed on `rsp.r`
(rules R9 and R35). -/

namespace Sys2Proof.Machine

/-- The exact product of two operands read as unsigned integers, `u(a) * u(b)` (rules R9, R40). -/
def unsignedProduct {W : Nat} (a b : BitVec W) : Nat := a.toNat * b.toNat

/-- The exact product of two operands read as signed integers, `s(a) * s(b)`, unbounded
(rules R9, R59 to R61). -/
def signedProduct {W : Nat} (a b : BitVec W) : Int := a.toInt * b.toInt

/-- A 32-bit operand of `MULO32`: bits 31:0 of its port; bits 63:32 are ignored (rule R35). -/
def operand32 (x : Word) : HalfWord := x.extractLsb' 0 32

/-- A 32-bit result on the 64-bit port: sign extended (rule R35). -/
def placeResult32 (p : HalfWord) : Word := p.signExtend 64

end Sys2Proof.Machine
end

