-- ==== Sys2Proof/Syntax.lean ====
section
/-! DEFINITION. The instruction set: one constructor for each row of the opcode table (rules R3,
R33). An instruction is a decoded request, and it carries both operand ports whole: the upper halves
that `MULO32` ignores (rule R35) are still bits of the request. -/

namespace Sys2Proof

/-- The closed set of operations, with the values of `req_a` and `req_b`. -/
inductive Instr where
  /-- `WMUL64 a, b`: the low 64 bits of the unsigned product (rules R40, R41). -/
  | wmul64 (a b : Word)
  /-- `MULO32 a, b`: signed 32-bit multiply with overflow flag (rule R60). -/
  | mulo32 (a b : Word)
  /-- `MULO64 a, b`: signed 64-bit multiply with overflow flag (rule R59). -/
  | mulo64 (a b : Word)
deriving DecidableEq, Repr

/-- The operation an instruction selects. -/
def Instr.op : Instr → Op
  | .wmul64 _ _ => .wmul64
  | .mulo32 _ _ => .mulo32
  | .mulo64 _ _ => .mulo64

/-- The first operand port of an instruction. -/
def Instr.a : Instr → Word
  | .wmul64 a _ => a
  | .mulo32 a _ => a
  | .mulo64 a _ => a

/-- The second operand port of an instruction. -/
def Instr.b : Instr → Word
  | .wmul64 _ b => b
  | .mulo32 _ b => b
  | .mulo64 _ b => b

/-- The instruction an operation makes of two operand port values. -/
def Op.instr : Op → Word → Word → Instr
  | .wmul64, a, b => .wmul64 a b
  | .mulo32, a, b => .mulo32 a b
  | .mulo64, a, b => .mulo64 a b

end Sys2Proof
end

