-- ==== Sys2Proof/WellFormed.lean ====
section
/-! DEFINITION. Which requests and instructions are well formed. Every pair of operand values is
legal with each of the three operations (rules R22, R34), so an instruction has no ill-formed
operand; what can be ill formed is a request's operation select (`11` is reserved, rule R34) and,
as a convention of the assembler only, the extension of a `MULO32` operand (rules R35, R37). -/

namespace Sys2Proof

/-- Every operand pattern is legal with every operation (rules R22, R34). -/
def Instr.wellFormed : Instr → Bool
  | .wmul64 _ _ => true
  | .mulo32 _ _ => true
  | .mulo64 _ _ => true

/-- A request a host may issue: `op` is not the reserved code `11` (rule R34). -/
def Request.legal (q : Request) : Bool := q.op != 0b11#2

/-- A program with a result: no request of it has `op = 11` (rule R93). -/
def Request.programLegal (qs : List Request) : Bool := qs.all Request.legal

/-- An operand port that holds the sign extension of its own low half (rule R35). -/
def Word.isSignExtended (x : Word) : Bool := (x.extractLsb' 0 32).signExtend 64 == x

/-- The canonical form of an instruction, which the assembler emits: `MULO32` has both operands sign
extended; the other two have one form only (rules R35, R37). A request need not be canonical. -/
def Instr.canonical : Instr → Bool
  | .wmul64 _ _ => true
  | .mulo32 a b => Word.isSignExtended a && Word.isSignExtended b
  | .mulo64 _ _ => true

end Sys2Proof
end

