-- ==== Sys2Proof/Decode.lean ====
section
/-! DEFINITION. The request word `REQ`, the response word `RSP`, the decoder and the encoder
(rules R30 to R36, R39). The decoder is total: it gives an instruction or refuses by name. -/

namespace Sys2Proof

/-- Why the decoder refuses a request word. -/
inductive DecodeError where
  /-- `op = 11` selects no operation (rule R34). -/
  | reservedOp
deriving DecidableEq, Repr

/-- The fields of a request word: `op` is bits 129:128, `a` bits 127:64, `b` bits 63:0
(rule R31). -/
def Request.ofWord (w : RequestWord) : Request :=
  { op := w.extractLsb' 128 2, a := w.extractLsb' 64 64, b := w.extractLsb' 0 64 }

/-- The concatenation of op, a and b, the first in the most significant place (rule R31). -/
def Request.word (q : Request) : RequestWord := q.op ++ q.a ++ q.b

/-- The operation a code selects (rule R33); code `11` selects none (rule R34). -/
def Op.ofCode (c : OpCode) : Option Op :=
  if c = 0b00#2 then some .wmul64
  else if c = 0b01#2 then some .mulo32
  else if c = 0b10#2 then some .mulo64
  else none

/-- Decoding looks at the two `op` bits only; the operands are passed on whole (rule R33). -/
def decodeRequest (q : Request) : Except DecodeError Instr :=
  match Op.ofCode q.op with
  | some o => .ok (o.instr q.a q.b)
  | none => .error .reservedOp

/-- Decoding of a request word (rules R31, R33, R34). -/
def decode (w : RequestWord) : Except DecodeError Instr := decodeRequest (Request.ofWord w)

/-- The request of an instruction. -/
def Instr.request (i : Instr) : Request := { op := i.op.code, a := i.a, b := i.b }

/-- The request word of an instruction (rules R31, R33). -/
def encode (i : Instr) : RequestWord := i.request.word

/-- The mask of every opcode-table row over the request word (rule R33). -/
def opMask : RequestWord := 0x300000000000000000000000000000000#130

/-- The match value of an operation's opcode-table row (rule R33). -/
def Op.matchWord : Op → RequestWord
  | .wmul64 => 0x000000000000000000000000000000000#130
  | .mulo32 => 0x100000000000000000000000000000000#130
  | .mulo64 => 0x200000000000000000000000000000000#130

/-- The response word: the flag is bit 64, the result bits 63:0 (rule R32). -/
def Response.word (x : Response) : ResponseWord := BitVec.ofBool x.v ++ x.r

/-- The fields of a response word (rule R32). -/
def Response.ofWord (w : ResponseWord) : Response :=
  { r := w.extractLsb' 0 64, v := w.getLsbD 64 }

/-- The request word that the low `nbits` bits of a number hold. A request word has 130 bits
(rule R31); the number may come in whole bytes, and the bits above bit 129 have no wire. DESIGN
CHOICE, safe (log entry 10). -/
def tableWord (nbits w : Nat) : RequestWord := BitVec.ofNat 130 (w % 2 ^ nbits)

/-- The instruction the decoder reads from an opcode-table word. -/
def decodeTableWord (nbits w : Nat) : Option Instr :=
  match decode (tableWord nbits w) with
  | .ok i => some i
  | .error _ => none

end Sys2Proof
end

