-- ==== Sys2Proof/Machine/State.lean ====
section
/-! DEFINITION. The state of the model. The block itself keeps nothing between requests (rules R10 to
R18); a state holds the input wires of the present evaluation, what the host drives afterwards, the
pipeline of an implementation with `LATENCY > 0` (rules R18, R91) and the responses delivered so far
(rule R93). There is no register, program counter, memory, mode or stored flag (rules R12 to R17,
R20, R86). -/

namespace Sys2Proof.Machine

/-- The input ports of rule R11 during one evaluation or clock cycle. `rst` exists only with
`LATENCY > 0`; with `LATENCY = 0` its value here is never looked at (rule R90; DEDUCED, safe: log
entry 14). -/
structure Ports where
  /-- The synchronous, active-high reset (rule R91). -/
  rst : Bool
  /-- The host presents a request. -/
  reqValid : Bool
  /-- `req_op`, `req_a`, `req_b`. -/
  req : Request
deriving DecidableEq, Repr

/-- What the host drives when it has nothing to ask: `req_valid = 0`, no reset. The three request
fields are then ignored (rule R97), and zero stands for them. DESIGN CHOICE, unsafe as a reset value
(log entry 1), safe after the host's list (log entry 9). -/
def Ports.idle : Ports := { rst := false, reqValid := false, req := { op := 0#2, a := 0#64, b := 0#64 } }

/-- The whole machine as plain data. DESIGN CHOICE, safe: rule R10 makes the block's state the unit
type, and the request stream and the observation stand here beside the pipeline (log entry 6). -/
structure State where
  /-- The input wires of this evaluation or clock cycle (rule R11). -/
  ports : Ports
  /-- What the host drives in the following ones, in order; afterwards it idles (rules R38, R93). -/
  host : List Ports
  /-- The pipeline, newest stage first; its length is `LATENCY`. A stage is `none` when its
  valid-tracking bit is 0, else it holds the response of the request in flight there (R18, R91).
  DEDUCED, safe (log entry 3). -/
  pipe : List (Option Response)
  /-- The responses the host has received, oldest first: the result of a program (rule R93). -/
  responses : List Response
deriving DecidableEq, Repr

/-- The machine has no fault: no exception or fault path exists (rule R80). -/
inductive Fault where
deriving DecidableEq, Repr

/-- Why the model gives a request no meaning. -/
inductive Refusal where
  /-- Raised by `exec` for an instruction that has no meaning yet; none is left. Safe: the model
  stops where the hardware goes on. -/
  | notModelled (mnemonic : String)
  /-- Raised by `step` when a request with the reserved code `op = 11` is accepted; the block answers
  it with unspecified fields and rule R34 has the model refuse it. Safe: nothing can be proved of a
  program that contains it. -/
  | reservedOp
deriving DecidableEq, Repr

/-- What one evaluation or clock edge finds on the input ports. -/
inductive Cycle where
  /-- `rst = 1` at an edge (rule R91). -/
  | inReset
  /-- No request is presented (rule R97). -/
  | idle
  /-- A request is accepted (rules R91, R95). -/
  | request (w : RequestWord)
deriving DecidableEq, Repr

/-- `LATENCY` of the implementation: the number of pipeline stages (rules R91, R96). DESIGN CHOICE,
safe (log entry 7). -/
def State.latency (s : State) : Nat := s.pipe.length

/-- `HAS_CLOCK_RESET`: `clk` and `rst` exist exactly when `LATENCY > 0` (rules R6, R11). -/
def State.hasClockReset (s : State) : Bool := s.latency != 0

/-- The machine with `LATENCY = n` right after reset: every valid-tracking bit 0 (rule R91), nothing
requested, nothing received. -/
def State.powerUp (n : Nat) : State :=
  { ports := Ports.idle, host := [], pipe := List.replicate n none, responses := [] }

/-- The machine right after reset, in the reference configuration `LATENCY = 0` (rules R19, R90). The
input ports and the host's list are a DESIGN CHOICE, unsafe (log entry 1). -/
def State.reset : State := State.powerUp Config.latencyReference

end Sys2Proof.Machine
end

