-- ==== Sys2Proof/Machine/Ops.lean ====
section
/-! DEFINITION. The shared operations over the state: what an evaluation or clock edge finds on the
ports, and how it moves the pipeline on. One `clock` is one evaluation (`LATENCY = 0`) or one rising
edge of `clk` (`LATENCY > 0`). -/

namespace Sys2Proof.Machine

/-- What the block finds at this evaluation or edge: `rst` counts only where it exists and wins over
a request (rule R91); without `req_valid` the request fields are ignored (rule R97). -/
def State.cycle (s : State) : Cycle :=
  if s.hasClockReset && s.ports.rst then .inReset
  else if s.ports.reqValid then .request s.ports.req.word
  else .idle

/-- The host drives the next values of its list, and idles when the list has run out. DESIGN CHOICE,
safe (log entry 9). -/
def State.advanceHost (s : State) : State :=
  { s with ports := s.host.headD Ports.idle, host := s.host.tail }

/-- The pipeline after an edge at which `entry` goes in: every stage moves one place on and the last
one leaves. With no stages the entry itself passes through (rules R90, R91). -/
def pipeAfter (entry : Option Response) (pipe : List (Option Response)) : List (Option Response) :=
  (entry :: pipe).dropLast

/-- What leaves the pipeline at an edge at which `entry` goes in: the last stage's content, or, with
no stages, the entry itself (rules R90, R91). -/
def pipeOutput (entry : Option Response) (pipe : List (Option Response)) : Option Response :=
  (entry :: pipe).getLastD none

/-- One evaluation or clock edge outside reset: `entry` is the response of the request accepted, if
any; the response that is due is handed to the host (rules R91, R93). DESIGN CHOICE, safe (log
entry 2). -/
def State.clock (entry : Option Response) (s : State) : State :=
  { s.advanceHost with
    pipe := pipeAfter entry s.pipe
    responses := s.responses ++ (pipeOutput entry s.pipe).toList }

/-- A clock edge with `rst = 1`: the valid-tracking bits are cleared, so the requests in flight are
dropped; nothing is accepted and nothing delivered (rule R91). DEDUCED, unsafe: a response due at
this very edge is dropped too (log entry 4). -/
def State.resetEdge (s : State) : State :=
  { s.advanceHost with pipe := List.replicate s.latency none }

/-- The block accepts a request and `x` is its response (rules R9, R93, R95). -/
def respond (x : Response) (s : State) : Host.Outcome State Fault Refusal :=
  .next (s.clock (some x))

end Sys2Proof.Machine
end

