-- ==== Sys2Proof/Machine/Checked.lean ====
section
/-! DEFINITION. The meanings of `MULO32` and `MULO64`, by their observable forms (rules R59, R60,
R61); the six-step reference algorithm stands apart, in `FlagPath.lean`. -/

namespace Sys2Proof.Machine

/-- `p = bv_W(E)`, the wrapping product, returned whether or not it overflowed (rules R61, R62). -/
def wrappingProduct {W : Nat} (a b : BitVec W) : BitVec W := BitVec.ofInt W (signedProduct a b)

/-- `v`, the exact product lies outside the signed range (rule R61). -/
def overflows {W : Nat} (a b : BitVec W) : Bool := outOfRange W (signedProduct a b)

/-- The response of `MULO32`: bits 31:0 of each port are multiplied, the result is sign extended
(rule R60). -/
def mulo32Response (a b : Word) : Response :=
  { r := placeResult32 (wrappingProduct (operand32 a) (operand32 b))
    v := overflows (operand32 a) (operand32 b) }

/-- The response of `MULO64` (rule R59). -/
def mulo64Response (a b : Word) : Response :=
  { r := wrappingProduct a b, v := overflows a b }

/-- `MULO32` (rule R60). -/
def execMulo32 (a b : Word) (s : State) : Host.Outcome State Fault Refusal :=
  respond (mulo32Response a b) s

/-- `MULO64` (rule R59). -/
def execMulo64 (a b : Word) (s : State) : Host.Outcome State Fault Refusal :=
  respond (mulo64Response a b) s

end Sys2Proof.Machine
end

