-- ==== Sys2Proof/Machine/Wide.lean ====
section
/-! DEFINITION. The meaning of `WMUL64`, by its contract (rules R40, R41, R54); rule R52 has the
reference datapath stand apart, in `WideDatapath.lean`. -/

namespace Sys2Proof.Machine

/-- `rsp.r` is the low 64 bits of the unsigned product, `rsp.v` is 0 (rule R41). -/
def wmul64Response (a b : Word) : Response :=
  { r := BitVec.ofNat 64 (unsignedProduct a b), v := wideFlag }

/-- `WMUL64` (rule R41). -/
def execWmul64 (a b : Word) (s : State) : Host.Outcome State Fault Refusal :=
  respond (wmul64Response a b) s

end Sys2Proof.Machine
end

