-- ==== Sys2Proof/Machine/Dispatch.lean ====
section
/-! DEFINITION. One arm per operation of the block (rule R3). -/

namespace Sys2Proof.Machine

/-- The block accepts a decoded request (rule R90). -/
def exec (i : Instr) (s : State) : Host.Outcome State Fault Refusal :=
  match i with
  | .wmul64 a b => Sys2Proof.Machine.execWmul64 a b s
  | .mulo32 a b => Sys2Proof.Machine.execMulo32 a b s
  | .mulo64 a b => Sys2Proof.Machine.execMulo64 a b s

end Sys2Proof.Machine
end

