-- ==== Sys2Proof/Machine/Step.lean ====
section
/-! DEFINITION. One evaluation or clock edge of the block, and how a request word is put where the
next step finds it. -/

namespace Sys2Proof.Machine

/-- One evaluation (`LATENCY = 0`) or one rising edge of `clk` (`LATENCY > 0`): rules R90, R91, R93,
R97; an accepted request with the reserved code is refused (rule R34; DEDUCED, safe: log entry 8). -/
def step (s : State) : Host.Outcome State Fault Refusal :=
  match s.cycle with
  | .inReset => .next s.resetEdge
  | .idle => .next (s.clock none)
  | .request w =>
    match decode w with
    | .ok i => exec i s
    | .error .reservedOp => .refused .reservedOp

/-- The host presents the request word that the low `nbits` bits of `w` hold, in place of what it
drives now: `rst = 0`, `req_valid = 1`. Nothing else changes. DESIGN CHOICE, safe (log entry 5). -/
def State.withFetchWord (s : State) (nbits w : Nat) : State :=
  { s with ports := { rst := false, reqValid := true, req := Request.ofWord (tableWord nbits w) } }

end Sys2Proof.Machine
end

