-- ==== Sys2Proof/Machine/Assembler.lean ====
section
/-! DEFINITION. The written form of requests and responses (rules R37, R38): text, as a list of
characters, to requests. The host's side of the interface; the block sees only the ports. There are
no pseudo-instructions, labels or names. The lexical details are a DESIGN CHOICE, safe (log
entry 11). -/

namespace Sys2Proof.Machine

/-- The marks and words of a line. -/
inductive Token where
  /-- A run of characters other than the marks and the space. -/
  | word (cs : List Char)
  /-- `,` -/
  | comma
  /-- `(` -/
  | lparen
  /-- `)` -/
  | rparen
deriving DecidableEq, Repr

/-- The word read so far, its characters in reverse, before the tokens that follow. -/
def flushWord (w : List Char) (ts : List Token) : List Token :=
  if w.isEmpty then ts else .word w.reverse :: ts

/-- The tokens of a line; `w` is the word being read, in reverse. -/
def tokens (w : List Char) : List Char → List Token
  | [] => flushWord w []
  | c :: cs =>
    if c = ' ' then flushWord w (tokens [] cs)
    else if c = ',' then flushWord w (.comma :: tokens [] cs)
    else if c = '(' then flushWord w (.lparen :: tokens [] cs)
    else if c = ')' then flushWord w (.rparen :: tokens [] cs)
    else tokens (c :: w) cs

/-- The value of a hexadecimal digit, capital or small. -/
def digitValue (c : Char) : Option Nat :=
  if 48 ≤ c.toNat ∧ c.toNat ≤ 57 then some (c.toNat - 48)
  else if 65 ≤ c.toNat ∧ c.toNat ≤ 70 then some (c.toNat - 55)
  else if 97 ≤ c.toNat ∧ c.toNat ≤ 102 then some (c.toNat - 87)
  else none

/-- The number a run of digits writes, `acc` being the digits before it; an underscore stands only
between two digits, and `afterDigit` says that a digit stands before (rule R37). -/
def digits (base : Nat) (afterDigit : Bool) (acc : Nat) : List Char → Option Nat
  | [] => if afterDigit then some acc else none
  | c :: cs =>
    if c = '_' then if afterDigit then digits base false acc cs else none
    else
      match digitValue c with
      | some d => if d < base then digits base true (acc * base + d) cs else none
      | none => none

/-- An integer literal (rule R37). -/
inductive Literal where
  /-- A decimal literal or a symbolic name: an integer. -/
  | int (n : Int)
  /-- A hexadecimal literal: the unsigned number its digits write. -/
  | pattern (n : Nat)
deriving DecidableEq, Repr

/-- The literal a word writes: a symbolic name, `0x` and hexadecimal digits, or decimal digits with
an optional leading minus (rule R37). -/
def parseLiteral : List Char → Option Literal
  | ['I', 'N', 'T', '3', '2', '_', 'M', 'I', 'N'] => some (.int (Config.minInt 32))
  | ['I', 'N', 'T', '6', '4', '_', 'M', 'I', 'N'] => some (.int (Config.minInt 64))
  | '0' :: 'x' :: cs => (digits 16 false 0 cs).map .pattern
  | '-' :: cs => (digits 10 false 0 cs).map fun n => .int (-(n : Int))
  | cs => (digits 10 false 0 cs).map fun n => .int (n : Int)

/-- The literal lies in the operation's operand type: an integer in its range, a hexadecimal literal
within its width (rule R37). -/
def literalInType : Op → Literal → Bool
  | .wmul64, .int n => decide (0 ≤ n) && decide (n < 2 ^ 64)
  | .mulo32, .int n => decide (Config.minInt 32 ≤ n) && decide (n ≤ Config.maxInt 32)
  | .mulo64, .int n => decide (Config.minInt 64 ≤ n) && decide (n ≤ Config.maxInt 64)
  | .wmul64, .pattern n => decide (n < 2 ^ 64)
  | .mulo32, .pattern n => decide (n < 2 ^ 32)
  | .mulo64, .pattern n => decide (n < 2 ^ 64)

/-- The field value a literal `n` assembles to: `bv_64(n)`, and for `MULO32` the sign extension of
`bv_32(n)` (rule R37). -/
def literalField : Op → Literal → Word
  | .wmul64, .int n => BitVec.ofInt 64 n
  | .mulo32, .int n => (BitVec.ofInt 32 n).signExtend 64
  | .mulo64, .int n => BitVec.ofInt 64 n
  | .wmul64, .pattern n => BitVec.ofNat 64 n
  | .mulo32, .pattern n => (BitVec.ofNat 32 n).signExtend 64
  | .mulo64, .pattern n => BitVec.ofNat 64 n

/-- The operand port value of a literal, if it lies in the operation's type (rule R37). -/
def assembleOperand (o : Op) (l : Literal) : Option Word :=
  if literalInType o l then some (literalField o l) else none

/-- The instruction of an operation and two literals (rule R37). -/
def assemble (o : Op) (la lb : Literal) : Option Instr :=
  match assembleOperand o la, assembleOperand o lb with
  | some a, some b => some (o.instr a b)
  | _, _ => none

/-- The operation a mnemonic names (rules R3, R37). -/
def opOfMnemonic : List Char → Option Op
  | ['W', 'M', 'U', 'L', '6', '4'] => some .wmul64
  | ['M', 'U', 'L', 'O', '3', '2'] => some .mulo32
  | ['M', 'U', 'L', 'O', '6', '4'] => some .mulo64
  | _ => none

/-- The operation an entry-point name of the source names (rules R3, R37). -/
def opOfCall : List Char → Option Op
  | ['w', 'i', 'd', 'e', '_', 'm', 'u', 'l', '_', 'u', '6', '4'] => some .wmul64
  | ['m', 'u', 'l', '_', 'o', 'v', 'e', 'r', 'f', 'l', 'o', 'w', '_', 'i', '3', '2'] => some .mulo32
  | ['m', 'u', 'l', '_', 'o', 'v', 'e', 'r', 'f', 'l', 'o', 'w', '_', 'i', '6', '4'] => some .mulo64
  | _ => none

/-- The instruction of an operation and two words, if they write literals of its type. -/
def assembleWords (o : Option Op) (a b : List Char) : Option Instr :=
  match o, parseLiteral a, parseLiteral b with
  | some o, some la, some lb => assemble o la lb
  | _, _, _ => none

/-- The two equivalent forms of a request, `MNEMONIC a, b` and `entry_point(a, b)` (rule R37). -/
def assembleTokens : List Token → Option Instr
  | [.word m, .word a, .comma, .word b] => assembleWords (opOfMnemonic m) a b
  | [.word m, .lparen, .word a, .comma, .word b, .rparen] => assembleWords (opOfCall m) a b
  | _ => none

/-- One line of a program (rule R37). -/
def assembleLine (cs : List Char) : Option Instr := assembleTokens (tokens [] cs)

/-- The lines of a text; `line` is the line being read, in reverse. -/
def splitLines (line : List Char) : List Char → List (List Char)
  | [] => [line.reverse]
  | c :: cs => if c = '\n' then line.reverse :: splitLines [] cs else splitLines (c :: line) cs

/-- A program text: one request a line, in order; a line that holds no token is passed over, and a
line that is no request leaves the whole text without a meaning (rules R37, R38). Rule R38 lets a
listing show a value 'with a comment' and no rule says how one is written: the model knows no
comment, so a line with text after its request is no request. DESIGN CHOICE, safe (log entry 11). -/
def assembleText (cs : List Char) : Option (List Instr) :=
  ((splitLines [] cs).filter fun l => !(tokens [] l).isEmpty).mapM assembleLine

/-- The truth value of a written flag: `true` or `1`, `false` or `0` (rule R37). -/
def parseFlag : List Char → Option Bool
  | ['t', 'r', 'u', 'e'] => some true
  | ['f', 'a', 'l', 's', 'e'] => some false
  | ['1'] => some true
  | ['0'] => some false
  | _ => none

/-- The result field a written result stands for; its literal is read as an operand's of the same
operation is. -/
def parseResult (o : Op) (w : List Char) : Option Word :=
  match parseLiteral w with
  | some l => assembleOperand o l
  | none => none

/-- A written response: `-> r` for `WMUL64`, whose flag is 0, and `-> (r, v)` for the checked
multiplies (rules R36, R37). -/
def parseResponse (o : Op) (cs : List Char) : Option Response :=
  match o, tokens [] cs with
  | .wmul64, [.word ['-', '>'], .word w] => (parseResult .wmul64 w).map fun r => { r := r, v := false }
  | .mulo32, [.word ['-', '>'], .lparen, .word w, .comma, .word f, .rparen] =>
    match parseResult .mulo32 w, parseFlag f with
    | some r, some v => some { r := r, v := v }
    | _, _ => none
  | .mulo64, [.word ['-', '>'], .lparen, .word w, .comma, .word f, .rparen] =>
    match parseResult .mulo64 w, parseFlag f with
    | some r, some v => some { r := r, v := v }
    | _, _ => none
  | _, _ => none

end Sys2Proof.Machine
end

