-- ==== Sys2Proof/Machine/FlagPath.lean ====
section
/-! DEFINITION. The reference algorithm for the overflow flag: six steps, no product wider than the
operands, a division with two constant dividends (rules R63 to R70, R72). Only its answer is
observable (rule R68); that it is the flag of the contract is rule R71. -/

namespace Sys2Proof.Machine

/-- The sign of an operand, all zeros or all ones: `x >>s (W-1)` (rule R65). -/
def signMask {W : Nat} (x : BitVec W) : BitVec W := x.sshiftRight (W - 1)

/-- The magnitude of an operand other than `MINW`: `(x ^ sign) - sign` (rule R65). -/
def magnitude {W : Nat} (x : BitVec W) : BitVec W := (x ^^^ signMask x) - signMask x

/-- The step of the algorithm that decides the flag (rule R70). -/
inductive FlagStep where
  /-- Step 1: `a` is the minimum (rule R63). -/
  | aIsMin
  /-- Step 2: `b` is the minimum and `a` is not (rule R64). -/
  | bIsMin
  /-- Step 4: a magnitude is below 2 (rule R66). -/
  | small
  /-- Step 5, same sign: the bound is `MAXW` (rule R67). -/
  | sameSign
  /-- Step 5, different signs: the bound is `MINW` read unsigned (rule R68). -/
  | differentSigns
deriving DecidableEq, Repr

/-- The first test that applies, in the order of rule R70. -/
def flagStep {W : Nat} (a b : BitVec W) : FlagStep :=
  if a = Config.minPattern W then .aIsMin
  else if b = Config.minPattern W then .bIsMin
  else if BitVec.ult (magnitude a) (BitVec.ofNat W 2) || BitVec.ult (magnitude b) (BitVec.ofNat W 2) then .small
  else if signMask a = signMask b then .sameSign
  else .differentSigns

/-- The quotient the magnitude of `a` is compared with: unsigned, truncating, with a constant
dividend (rules R67, R68). -/
def flagBound {W : Nat} (dividend b : BitVec W) : BitVec W := dividend / magnitude b

/-- The flag each step gives (rules R63, R64, R66 to R68). -/
def flagOfStep {W : Nat} (a b : BitVec W) : FlagStep → Bool
  | .aIsMin => b != BitVec.ofNat W 0 && b != BitVec.ofNat W 1
  | .bIsMin => a != BitVec.ofNat W 0 && a != BitVec.ofNat W 1
  | .small => false
  | .sameSign => BitVec.ult (flagBound (Config.maxPattern W) b) (magnitude a)
  | .differentSigns => BitVec.ult (flagBound (Config.minPattern W) b) (magnitude a)

/-- The flag of the reference algorithm (rules R63 to R70). -/
def overflowsReference {W : Nat} (a b : BitVec W) : Bool := flagOfStep a b (flagStep a b)

/-- The result and flag of the reference algorithm; the product is `a *_W b` in every step
(rules R62, R69). -/
def muloReference {W : Nat} (a b : BitVec W) : BitVec W × Bool := (a * b, overflowsReference a b)

end Sys2Proof.Machine
end

