-- ==== Sys2Proof/Machine/Instances.lean ====
section
/-! DEFINITION. `N_INSTANCES` independent copies of the block, one for each caller (rule R88(a), open
parameter of rule R6). They share nothing; the copies need not have the same `LATENCY`. An arbiter
that serves several callers with one copy is outside the block (rule R88(b)). DESIGN CHOICE, safe (log
entry 12). -/

namespace Sys2Proof.Machine

/-- Instance `k` makes one step and the others stand still; a `k` that names no instance changes
nothing. A stop of instance `k` is the stop of the row. -/
def stepInstance (k : Nat) (row : List State) : Host.Outcome (List State) Fault Refusal :=
  match row[k]? with
  | none => .next row
  | some s =>
    match step s with
    | .next t => .next (row.set k t)
    | .fault r => .fault r
    | .refused r => .refused r

/-- The instances named in `ks` step one after another, in that order. -/
def runInstances : List Nat → List State → Host.Outcome (List State) Fault Refusal
  | [], row => .next row
  | k :: ks, row =>
    match stepInstance k row with
    | .next row' => runInstances ks row'
    | .fault r => .fault r
    | .refused r => .refused r

end Sys2Proof.Machine
end

