-- ==== Sys2Proof/Machine/WideDatapath.lean ====
section
/-! DEFINITION. The reference datapath of `WMUL64`: ten 16 by 16 bit multipliers and the carry chains
that combine them (rules R43 to R51). It is never observable (rule R52); that it gives the value of
the contract is rule R53. Every signal keeps the name and the width the rules give it. -/

namespace Sys2Proof.Machine

/-- `mul16`, the 32-bit product of two quarter-words; it never wraps (rules R9, R45). -/
def mul16 (x y : QuarterWord) : HalfWord := x.zeroExtend 32 * y.zeroExtend 32

/-- Quarter-word `i` of an operand: bits `16*i+15` down to `16*i` (rule R43). -/
def quarter (i : Nat) (x : Word) : QuarterWord := x.extractLsb' (16 * i) 16

/-- The low half of an operand, `aL` or `bL` (rule R43). -/
def lowHalf (x : Word) : HalfWord := x.extractLsb' 0 32

/-- The high half of an operand, `aH` or `bH` (rule R43). -/
def highHalf (x : Word) : HalfWord := x.extractLsb' 32 32

/-- Bits 15:0 of a 32-bit signal. -/
def low16 (x : HalfWord) : QuarterWord := x.extractLsb' 0 16

/-- Bits 31:16 of a 32-bit signal. -/
def high16 (x : HalfWord) : QuarterWord := x.extractLsb' 16 16

/-- The signals of the lower product `P = aL * bL` (rules R45, R46). -/
structure LowerSignals where
  /-- `mul16(a0, b0)`. -/
  p00 : HalfWord
  /-- `mul16(a1, b0)`. -/
  p10 : HalfWord
  /-- `mul16(a0, b1)`. -/
  p01 : HalfWord
  /-- `mul16(a1, b1)`. -/
  p11 : HalfWord
  /-- Bits 15:0 of `P`. -/
  lo0 : QuarterWord
  /-- The accumulation of `p10`. -/
  t1 : HalfWord
  /-- The accumulation of `p01`. -/
  t2 : HalfWord
  /-- Bits 31:16 of `P`. -/
  lo1 : QuarterWord
  /-- Bits 63:32 of `P`. -/
  h : HalfWord
deriving DecidableEq, Repr

/-- The three accumulations of the lower product, in the order of rule R46. -/
def lowerSignals (a0 a1 b0 b1 : QuarterWord) : LowerSignals :=
  let p00 := mul16 a0 b0
  let p10 := mul16 a1 b0
  let p01 := mul16 a0 b1
  let p11 := mul16 a1 b1
  let t1 := (high16 p00).zeroExtend 32 + p10
  let t2 := (low16 t1).zeroExtend 32 + p01
  { p00, p10, p01, p11, t1, t2
    lo0 := low16 p00
    lo1 := low16 t2
    h := (high16 t1).zeroExtend 32 + (high16 t2).zeroExtend 32 + p11 }

/-- `P = {h, lo1, lo0}` (rule R46). -/
def LowerSignals.product (g : LowerSignals) : Word := g.h ++ g.lo1 ++ g.lo0

/-- The signals of a cross term modulo 2^32 (rules R47, R48). -/
structure CrossSignals where
  /-- The product of weight 2^32: `q02` or `q20`. -/
  q0 : HalfWord
  /-- The first product of weight 2^48: `q12` or `q21`. -/
  q1 : HalfWord
  /-- The second product of weight 2^48: `q03` or `q30`. -/
  q2 : HalfWord
  /-- The 16-bit sum of their low halves: `m1` or `m2`. -/
  m : QuarterWord
  /-- The cross term: `X1` or `X2`. -/
  x : HalfWord
deriving DecidableEq, Repr

/-- A cross term from the low half `{l1, l0}` of one operand and the high half `{h1, h0}` of the
other: `q0 = l0*h0`, `q1 = l1*h0`, `q2 = l0*h1`; both carries out have weight 2^64 (rules R47, R48,
where `q21 = a2*b1` and `q30 = a3*b0`). -/
def crossSignals (l0 l1 h0 h1 : QuarterWord) : CrossSignals :=
  let q0 := mul16 l0 h0
  let q1 := mul16 l1 h0
  let q2 := mul16 l0 h1
  let m := low16 q1 + low16 q2
  { q0, q1, q2, m, x := q0 + (m ++ 0#16) }

/-- Every signal of the reference datapath. -/
structure WideSignals where
  /-- The lower product. -/
  lower : LowerSignals
  /-- `aL * bH` modulo 2^32: `q02`, `q12`, `q03`, `m1`, `X1` (rule R47). -/
  cross1 : CrossSignals
  /-- `aH * bL` modulo 2^32: `q20`, `q21`, `q30`, `m2`, `X2` (rule R48). -/
  cross2 : CrossSignals
  /-- `X`, the accumulated cross terms (rule R49). -/
  x : HalfWord
  /-- `U`, the upper word of the result (rule R50). -/
  u : HalfWord
deriving DecidableEq, Repr

/-- The reference datapath (rules R43, R46 to R50). -/
def wideSignals (a b : Word) : WideSignals :=
  let lower := lowerSignals (quarter 0 a) (quarter 1 a) (quarter 0 b) (quarter 1 b)
  let cross1 := crossSignals (quarter 0 a) (quarter 1 a) (quarter 2 b) (quarter 3 b)
  let cross2 := crossSignals (quarter 0 b) (quarter 1 b) (quarter 2 a) (quarter 3 a)
  let x := cross1.x + cross2.x
  { lower, cross1, cross2, x, u := lower.h + x }

/-- The assembled result `{U, lo1, lo0}` (rule R51). -/
def wmul64Reference (a b : Word) : Word :=
  let g := wideSignals a b
  g.u ++ g.lower.lo1 ++ g.lower.lo0

end Sys2Proof.Machine
end

