-- ==== Sys2Proof/Machine/Program.lean ====
section
/-! DEFINITION. A program is a list of requests the host presents in order (rules R38, R93). The
block stores none: to load one is to have the host drive it onto the ports (DESIGN CHOICE, safe: log
entry 5). -/

namespace Sys2Proof.Machine

/-- The ports while the host presents a request. -/
def Ports.present (q : Request) : Ports := { rst := false, reqValid := true, req := q }

/-- The machine with the host about to drive `ps`, one entry an evaluation or cycle. -/
def State.driving (ps : List Ports) (s : State) : State :=
  { s with ports := ps.headD Ports.idle, host := ps.tail }

/-- The machine with `LATENCY = n` after reset, the host about to present a program one request an
evaluation or cycle (rules R38, R92, R93). -/
def State.withProgram (n : Nat) (qs : List Request) : State :=
  (State.powerUp n).driving (qs.map Ports.present)

end Sys2Proof.Machine
end

