-- ==== Sys2Proof/Machine/Response.lean ====
section
/-! DEFINITION. What the output ports carry: the response of a request, as a function of the request
alone (rule R7), and the views `rsp_valid`, `rsp_r`, `rsp_v` of a state (rules R11, R19, R90, R91).
The output ports are wires, so nothing here is stored. -/

namespace Sys2Proof.Machine

/-- The response of an instruction, a function of its operands alone (rules R7, R90). -/
def responseOf : Instr → Response
  | .wmul64 a b => wmul64Response a b
  | .mulo32 a b => mulo32Response a b
  | .mulo64 a b => mulo64Response a b

/-- The response of a request; `none` for the reserved code, whose response fields are unspecified
(rules R34, R90). -/
def requestResponse (q : Request) : Option Response :=
  match decodeRequest q with
  | .ok i => some (responseOf i)
  | .error _ => none

/-- The result of a program: the list of its responses, and no result if a request of it has
`op = 11` (rule R93). -/
def programResponses (qs : List Request) : Option (List Response) := qs.mapM requestResponse

/-- `rsp_valid`: with `LATENCY = 0` it equals `req_valid`; otherwise it is 1 when the last stage holds
a response, and 0 as long as `rst = 1` (rules R19, R90, R91). DEDUCED, unsafe: 0 already in the
cycle in which `rst` rises (log entry 4). -/
def State.rspValid (s : State) : Bool :=
  match s.pipe.getLast? with
  | none => s.ports.reqValid
  | some stage => !s.ports.rst && stage.isSome

/-- The values of `rsp_r` and `rsp_v` where the rules specify them, `none` elsewhere: while
`rsp_valid = 0` and in the answer to the reserved code both are unspecified (rules R19, R34).
DEDUCED, safe (log entries 8 and 13). -/
def State.rspPort (s : State) : Option Response :=
  match s.pipe.getLast? with
  | none => if s.ports.reqValid then requestResponse s.ports.req else none
  | some stage => if s.ports.rst then none else stage

end Sys2Proof.Machine
end

