-- ==== Sys2Proof/Safety.lean ====
section
/-! DEFINITION. What counts as a safe use of the block, in the terms the statements use: a host never
issues the reserved code (rule R34); a host that wants its responses does not assert `rst` while a
request is in flight (rules R91, R94). -/

namespace Sys2Proof.Machine

/-- The port values from this evaluation on, as far as the host's list goes. -/
def State.inputs (s : State) : List Ports := s.ports :: s.host

/-- These port values make the block accept no request with the reserved code: either no request is
accepted (none presented, or a reset that exists is asserted) or it is a legal one. -/
def Ports.safe (hasReset : Bool) (p : Ports) : Bool :=
  (hasReset && p.rst) || !p.reqValid || p.req.legal

/-- The host never issues `op = 11` in a request the block accepts (rule R34). -/
def State.safe (s : State) : Bool := s.inputs.all (Ports.safe s.hasClockReset)

/-- The host does not assert a reset that exists, now or later (rule R94). -/
def State.noReset (s : State) : Bool := s.inputs.all fun p => !(s.hasClockReset && p.rst)

/-- The responses in flight, in the order in which they will leave (rules R91, R93). -/
def State.inFlight (s : State) : List Response := s.pipe.reverse.filterMap id

/-- The requests presented from this evaluation on, in order. -/
def State.presented (s : State) : List Request :=
  s.inputs.filterMap fun p => if p.reqValid then some p.req else none

/-- What the host will have received when everything presented has been answered: what it has, then
what is in flight, then the response of each request still to come (rule R93). -/
def State.expected (s : State) : List Response :=
  s.responses ++ s.inFlight ++ s.presented.filterMap requestResponse

/-- The host drives nothing more: no request and no reset, now or later. -/
def State.quiet (s : State) : Bool := s.inputs.all fun p => !p.reqValid && !p.rst

end Sys2Proof.Machine
end

