-- ==== Sys2Proof/Certificates/Slice0/Obligations.lean ====
section
/-! DEFINITION. The statements for the provers. A statement about every state holds at every
`LATENCY`, since a state's pipeline may have any length. -/

open Sys2Proof Sys2Proof.Machine

/-! ## Encoding -/

/-- Rules R31, R33: every well-formed instruction is decoded from its own request word, every operand
bit included. -/
def Obligations.DecodeOfEncode : Prop :=
  ∀ i : Instr, i.wellFormed = true → decode (encode i) = .ok i

/-- Rules R31, R33: a request word that decodes is the encoding of what it decodes to, so no two
words decode to one instruction. -/
def Obligations.EncodeOfDecode : Prop :=
  ∀ (w : RequestWord) (i : Instr), decode w = .ok i → encode i = w

/-- Rule R31: the fields of the request word and their places. -/
def Obligations.RequestWordFields : Prop :=
  (∀ q : Request, q.word.extractLsb' 128 2 = q.op ∧ q.word.extractLsb' 64 64 = q.a ∧
    q.word.extractLsb' 0 64 = q.b ∧ Request.ofWord q.word = q) ∧
  ∀ w : RequestWord, (Request.ofWord w).word = w

/-- Rule R32: the fields of the response word and their places. -/
def Obligations.ResponseWordFields : Prop :=
  (∀ x : Response, x.word.extractLsb' 64 1 = BitVec.ofBool x.v ∧ x.word.extractLsb' 0 64 = x.r ∧
    Response.ofWord x.word = x) ∧
  ∀ y : ResponseWord, (Response.ofWord y).word = y

/-- Rule R33: mask and match over the request word select the operation, and the operands are bits
127:64 and 63:0 whatever they hold. -/
def Obligations.MaskAndMatchSelectOperation : Prop :=
  ∀ w : RequestWord,
    (w &&& 0x300000000000000000000000000000000#130 = 0x000000000000000000000000000000000#130 ↔
      decode w = .ok (.wmul64 (w.extractLsb' 64 64) (w.extractLsb' 0 64))) ∧
    (w &&& 0x300000000000000000000000000000000#130 = 0x100000000000000000000000000000000#130 ↔
      decode w = .ok (.mulo32 (w.extractLsb' 64 64) (w.extractLsb' 0 64))) ∧
    (w &&& 0x300000000000000000000000000000000#130 = 0x200000000000000000000000000000000#130 ↔
      decode w = .ok (.mulo64 (w.extractLsb' 64 64) (w.extractLsb' 0 64))) ∧
    (w &&& 0x300000000000000000000000000000000#130 = 0x300000000000000000000000000000000#130 ↔
      decode w = .error .reservedOp)

/-- Request words written out in `95_test_vectors.md` sections 1.2, 2.5 and 2.6, and what each of them
stands for. -/
def Obligations.WrittenOutWordsDecode : Prop :=
  decode 0x0FFFFFFFFFFFFFFFF0000000000000002#130 = .ok (.wmul64 0xFFFFFFFFFFFFFFFF#64 2#64) ∧
  decode 0x1FFFFFFFF80000000FFFFFFFFFFFFFFFF#130 =
    .ok (.mulo32 0xFFFFFFFF80000000#64 0xFFFFFFFFFFFFFFFF#64) ∧
  decode 0x1123456780000000CFFFFFFFF00000005#130 =
    .ok (.mulo32 0x123456780000000C#64 0xFFFFFFFF00000005#64) ∧
  decode 0x200000000000000030000000000000004#130 = .ok (.mulo64 3#64 4#64) ∧
  decode 0x300000000000000030000000000000007#130 = .error .reservedOp

/-! ## One step -/

/-- Rules R90, R91, R93: when a request is accepted and its word decodes to an instruction, a step is
that instruction and nothing else; and the word placed by `withFetchWord` is the one that runs. -/
def Obligations.StepRunsPresentedInstruction : Prop :=
  (∀ (s : State) (i : Instr), (s.pipe = [] ∨ s.ports.rst = false) → s.ports.reqValid = true →
    decode s.ports.req.word = .ok i → step s = exec i s) ∧
  ∀ (s : State) (nbits w : Nat) (i : Instr), decodeTableWord nbits w = some i →
    step (s.withFetchWord nbits w) = exec i (s.withFetchWord nbits w)

/-- The value of rule R41 and the frame of `WMUL64`: in every state it is answered with the low 64
bits of the unsigned product and flag 0. With no pipeline the host has the response at once (rule
R90); otherwise it goes in at the first stage, every other response in flight moves one place on, and
the host gets the one that was due (rule R91; that a stage holds a response is log entry 3, DEDUCED).
What the host received before is unchanged. That the next ports are the head of the host's list, or
idle ports when it has run out, is the MODEL'S CHOICE and no rule's (log entries 6 and 9). -/
def Obligations.Wmul64Answers : Prop :=
  ∀ (s : State) (a b : Word), ∃ t : State, exec (.wmul64 a b) s = .next t ∧
    t.ports = s.host.headD Ports.idle ∧ t.host = s.host.tail ∧
    (s.pipe = [] → t.pipe = [] ∧
      t.responses = s.responses ++ [{ r := BitVec.ofNat 64 (a.toNat * b.toNat), v := false }]) ∧
    ∀ (front : List (Option Response)) (last : Option Response), s.pipe = front ++ [last] →
      t.pipe = some { r := BitVec.ofNat 64 (a.toNat * b.toNat), v := false } :: front ∧
      t.responses = s.responses ++ last.toList

/-- The observable form of rule R60 and the frame of `MULO32`: the operands are bits 31:0 of the ports,
the result is the sign extension of the wrapping product, the flag says that the exact product is
outside the 32-bit signed range. Where the response goes is rules R90 and R91 (that a stage holds a
response is log entry 3, DEDUCED); the clauses on the next ports and the host's list are the MODEL'S
CHOICE and no rule's (log entries 6 and 9). -/
def Obligations.Mulo32Answers : Prop :=
  ∀ (s : State) (a b : Word) (E : Int) (x : Response),
    E = (a.extractLsb' 0 32).toInt * (b.extractLsb' 0 32).toInt →
    x = { r := (BitVec.ofInt 32 E).signExtend 64, v := decide (E < -2147483648 ∨ 2147483647 < E) } →
    ∃ t : State, exec (.mulo32 a b) s = .next t ∧
      t.ports = s.host.headD Ports.idle ∧ t.host = s.host.tail ∧
      (s.pipe = [] → t.pipe = [] ∧ t.responses = s.responses ++ [x]) ∧
      ∀ (front : List (Option Response)) (last : Option Response), s.pipe = front ++ [last] →
        t.pipe = some x :: front ∧ t.responses = s.responses ++ last.toList

/-- The observable form of rule R59 and the frame of `MULO64`, as for `MULO32` at 64 bits. Where the
response goes is rules R90 and R91 (that a stage holds a response is log entry 3, DEDUCED); the
clauses on the next ports and the host's list are the MODEL'S CHOICE and no rule's (log entries 6
and 9). -/
def Obligations.Mulo64Answers : Prop :=
  ∀ (s : State) (a b : Word) (E : Int) (x : Response),
    E = a.toInt * b.toInt →
    x = { r := BitVec.ofInt 64 E,
          v := decide (E < -9223372036854775808 ∨ 9223372036854775807 < E) } →
    ∃ t : State, exec (.mulo64 a b) s = .next t ∧
      t.ports = s.host.headD Ports.idle ∧ t.host = s.host.tail ∧
      (s.pipe = [] → t.pipe = [] ∧ t.responses = s.responses ++ [x]) ∧
      ∀ (front : List (Option Response)) (last : Option Response), s.pipe = front ++ [last] →
        t.pipe = some x :: front ∧ t.responses = s.responses ++ last.toList

/-- Rule R97: without `req_valid` the request fields are ignored, whatever they hold (the reserved
code included), and nothing enters. That outside reset the stages move on and the host gets only a
response that was due is rule R91. The clauses on the next ports and the host's list are the MODEL'S
CHOICE and no rule's (log entries 6 and 9). -/
def Obligations.IdleCycleRequestsNothing : Prop :=
  ∀ s : State, s.ports.reqValid = false →
    (∀ q : Request, step { s with ports := { s.ports with req := q } } = step s) ∧
    (s.pipe = [] → ∃ t : State, step s = .next t ∧ t.pipe = [] ∧ t.responses = s.responses ∧
      t.ports = s.host.headD Ports.idle ∧ t.host = s.host.tail) ∧
    ∀ (front : List (Option Response)) (last : Option Response), s.pipe = front ++ [last] →
      s.ports.rst = false → ∃ t : State, step s = .next t ∧ t.pipe = none :: front ∧
        t.responses = s.responses ++ last.toList ∧
        t.ports = s.host.headD Ports.idle ∧ t.host = s.host.tail

/-- The reset edge of rule R91: with `LATENCY > 0` and `rst = 1`, whatever is on the other ports,
nothing is accepted and no request in flight survives. That `rsp_valid` is 0 and nothing is delivered
already in the cycle in which `rst` rises is the model's reading of 'while `rst = 1`' (log entry 4,
DEDUCED, unsafe). The clauses on the next ports and the host's list are the MODEL'S CHOICE and no
rule's (log entries 6 and 9). -/
def Obligations.ResetEdgeDropsWhatIsInFlight : Prop :=
  ∀ s : State, s.pipe ≠ [] → s.ports.rst = true →
    s.rspValid = false ∧ ∃ t : State, step s = .next t ∧ t.latency = s.latency ∧
      (∀ stage ∈ t.pipe, stage = none) ∧ t.inFlight = [] ∧ t.responses = s.responses ∧
      t.ports = s.host.headD Ports.idle ∧ t.host = s.host.tail

/-- Rule R90: with `LATENCY = 0` there is no reset input, so the value that stands for it in the
model's ports changes nothing (log entry 14, DEDUCED). -/
def Obligations.NoResetInputAtLatencyZero : Prop :=
  ∀ (s : State) (level : Bool), s.pipe = [] →
    step { s with ports := { s.ports with rst := level } } = step s ∧
    State.rspValid { s with ports := { s.ports with rst := level } } = s.rspValid ∧
    State.rspPort { s with ports := { s.ports with rst := level } } = s.rspPort

/-- Rule R90: with `LATENCY = 0` the output ports are a function of the input ports. -/
def Obligations.CombinationalResponsePorts : Prop :=
  ∀ s : State, s.pipe = [] → s.rspValid = s.ports.reqValid ∧
    (s.ports.reqValid = true → s.ports.req.op = 0b00#2 →
      s.rspPort = some (wmul64Response s.ports.req.a s.ports.req.b)) ∧
    (s.ports.reqValid = true → s.ports.req.op = 0b01#2 →
      s.rspPort = some (mulo32Response s.ports.req.a s.ports.req.b)) ∧
    (s.ports.reqValid = true → s.ports.req.op = 0b10#2 →
      s.rspPort = some (mulo64Response s.ports.req.a s.ports.req.b))

/-- Rules R91, R93: what the host receives in a step is what the response ports carry: the response
while `rsp_valid = 1` and nothing while it is 0. That `rsp_valid` is 0 in every cycle with `rst = 1`
is log entry 4 (DEDUCED), and that the ports then have no value log entry 13 (DEDUCED). -/
def Obligations.HostReceivesTheResponsePorts : Prop :=
  ∀ s t : State, step s = .next t →
    (s.rspValid = true → ∃ x : Response, s.rspPort = some x ∧ t.responses = s.responses ++ [x]) ∧
    (s.rspValid = false → s.rspPort = none ∧ t.responses = s.responses)

/-- Rule R34: an accepted request with the reserved code is refused at decode, and with `LATENCY = 0`
`rsp_valid` is 1 all the same with its fields unspecified; an accepted request with any other code is
answered, whatever its operands. That the refusal comes when the request is accepted, at every
`LATENCY`, is log entry 8 (DEDUCED). -/
def Obligations.ReservedRequestIsRefused : Prop :=
  ∀ s : State, (s.pipe = [] ∨ s.ports.rst = false) → s.ports.reqValid = true →
    (s.ports.req.op = 0b11#2 → decodeRequest s.ports.req = .error .reservedOp ∧
      step s = .refused .reservedOp ∧
      (s.pipe = [] → s.rspValid = true ∧ s.rspPort = none)) ∧
    (s.ports.req.op ≠ 0b11#2 → ∃ t : State, step s = .next t)

/-- Rules R80, R34: no step faults, and the only stop is the refusal of an accepted request with the
reserved code, at the step that accepts it (log entry 8, DEDUCED). -/
def Obligations.OnlyTheReservedRequestStops : Prop :=
  ∀ s : State, (∀ f : Fault, step s ≠ .fault f) ∧
    ∀ r : Refusal, step s = .refused r → r = .reservedOp ∧ s.ports.reqValid = true ∧
      s.ports.req.op = 0b11#2 ∧ (s.pipe = [] ∨ s.ports.rst = false)

/-! ## Whole-machine rules -/

/-- Rules R34, R80, R95: from a state whose host never issues the reserved code a step always
answers, and the next state is of the same kind. That the host's list is part of the state and the
host idles after it is the model's choice (log entries 6 and 9). -/
def Obligations.SafeUseNeverStops : Prop :=
  ∀ s : State, s.safe = true → ∃ t : State, step s = .next t ∧ t.safe = true

/-- The machine after reset is in safe use at every `LATENCY`. The idle ports are the model's choice
(log entry 1). -/
def Obligations.PowerUpIsSafeUse : Prop :=
  State.reset.safe = true ∧ ∀ n : Nat, (State.powerUp n).safe = true ∧ (State.powerUp n).noReset = true

/-- Rule R93: without reset, no response is dropped, duplicated, reordered or changed: what the host
will have received in the end is the same before and after every step. That the requests to come and
the responses received are part of the state is the model's choice (log entries 6 and 9). -/
def Obligations.ExpectedResponsesAreConserved : Prop :=
  ∀ (result : List Response) (s t : State), s.noReset = true ∧ s.expected = result →
    step s = .next t → t.noReset = true ∧ t.expected = result

/-- The machine after reset expects nothing, nothing is presented to it, and it is not in reset. The
idle ports and the empty list are the model's choice (log entry 1). -/
def Obligations.ResetExpectsNothing : Prop :=
  State.reset.noReset = true ∧ State.reset.expected = [] ∧ State.reset.presented = [] ∧
    ∀ n : Nat, (State.powerUp n).expected = [] ∧ (State.powerUp n).presented = []

/-- Rules R7, R93: whatever set of instructions is given, if every response received or in flight
answers one of them and every request still presented that decodes is one of them, a step keeps it so,
a reset edge included: the block makes up no response. That the requests to come and the responses
received are part of the state is the model's choice (log entries 6 and 9). -/
def Obligations.EveryResponseAnswersAGivenInstruction : Prop :=
  ∀ (given : Instr → Prop) (s t : State),
    (∀ x ∈ s.responses ++ s.inFlight, ∃ i : Instr, given i ∧ x = responseOf i) →
    (∀ q ∈ s.presented, ∀ i : Instr, decodeRequest q = .ok i → given i) →
    step s = .next t →
    (∀ x ∈ t.responses ++ t.inFlight, ∃ i : Instr, given i ∧ x = responseOf i) ∧
    ∀ q ∈ t.presented, ∀ i : Instr, decodeRequest q = .ok i → given i

/-- Rule R96: `LATENCY` is fixed for an implementation: no step changes it. That a state carries it as
its number of stages is the model's choice (log entry 7). -/
def Obligations.LatencyNeverChanges : Prop :=
  ∀ (n : Nat) (s t : State), s.latency = n → step s = .next t → t.latency = n

/-- Rule R93: a step only adds to what the host has received, and at most one response. -/
def Obligations.ReceivedResponsesAreKept : Prop :=
  ∀ s t : State, step s = .next t → ∃ new : List Response, t.responses = s.responses ++ new ∧
    new.length ≤ 1

/-- Rules R91, R95, R96: the response to an accepted request is sampled `LATENCY` steps later, after
all that were in flight, whatever the operation and its operands. That one step is one evaluation or
clock edge, and what the host drives, is the model's choice (log entries 2, 6 and 9). -/
def Obligations.ResponseComesAfterLatencySteps : Prop :=
  ∀ (s : State) (i : Instr), s.safe = true → s.noReset = true → s.ports.reqValid = true →
    decodeRequest s.ports.req = .ok i →
    ∃ t u : State, Sys2Proof.core.run s.latency s = .next t ∧
      t.responses = s.responses ++ s.inFlight ∧
      step t = .next u ∧ u.responses = t.responses ++ [responseOf i]

/-- Rules R92, R93: the result of a program is the list of the responses of its requests, at every
`LATENCY`, from the first request after reset on. How the program comes onto the ports, that one step
is one evaluation or clock edge, and that the host idles after the program, is the model's choice
(log entries 2, 5 and 9). -/
def Obligations.ProgramResultIsTheResponseList : Prop :=
  ∀ (n : Nat) (program : List Instr), ∃ t : State,
    Sys2Proof.core.run (program.length + n) (State.withProgram n (program.map Instr.request)) = .next t ∧
      t.responses = program.map responseOf ∧ t.inFlight = [] ∧
      programResponses (program.map Instr.request) = some (program.map responseOf)

/-- Rules R7, R10: two accepted requests with the same `op`, `a` and `b` get the same response,
whatever else the two machines hold, their latencies included. That the first stage holds the
response is log entry 3 (DEDUCED). -/
def Obligations.SameRequestSameResponse : Prop :=
  ∀ s s' t t' : State, s.ports.reqValid = true → s'.ports.reqValid = true →
    (s.pipe = [] ∨ s.ports.rst = false) → (s'.pipe = [] ∨ s'.ports.rst = false) →
    s.ports.req = s'.ports.req →
    step s = .next t → step s' = .next t' →
    ∃ x : Response,
      ((s.pipe = [] ∧ t.responses = s.responses ++ [x]) ∨ (s.pipe ≠ [] ∧ t.pipe.head? = some (some x))) ∧
      ((s'.pipe = [] ∧ t'.responses = s'.responses ++ [x]) ∨
        (s'.pipe ≠ [] ∧ t'.pipe.head? = some (some x)))

/-- Rules R10, R19: the machine after reset: the values the rules give (no response, valid bits 0, the
reference `LATENCY`); the idle input ports are the model's choice (log entry 1). -/
def Obligations.StateAfterReset : Prop :=
  State.reset.latency = 0 ∧ State.reset.rspValid = false ∧ State.reset.responses = [] ∧
  State.reset.ports.reqValid = false ∧ step State.reset = .next State.reset ∧
  ∀ n : Nat, (State.powerUp n).latency = n ∧ (State.powerUp n).rspValid = false ∧
    (State.powerUp n).inFlight = [] ∧ ∀ stage ∈ (State.powerUp n).pipe, stage = none

/-- When one instance steps, no other changes, and it does what it does alone. Rule R88(a) has the
instances share nothing and gives no stepping: that one instance steps at a time while the others
stand still, and that its stop is the row's, is the MODEL'S CHOICE (log entry 12). -/
def Obligations.InstancesShareNothing : Prop :=
  ∀ (k : Nat) (row row' : List State), stepInstance k row = .next row' →
    row'.length = row.length ∧ (∀ j : Nat, j ≠ k → row'[j]? = row[j]?) ∧
    ∀ s : State, row[k]? = some s → ∃ t : State, step s = .next t ∧ row'[k]? = some t

/-- The order in which two instances step makes no difference. Rule R88(a) has the instances share
nothing and speaks of no order: single steps in some order, and the stop of the row at a refusal, are
the MODEL'S CHOICE (log entry 12). -/
def Obligations.InstanceOrderIsUnobservable : Prop :=
  ∀ (j k : Nat) (row row' : List State), j ≠ k →
    runInstances [j, k] row = .next row' → runInstances [k, j] row = .next row'

/-! ## WMUL64 -/

/-- Rule R53: the reference datapath gives the value of the contract. -/
def Obligations.WideDatapathEqualsContract : Prop :=
  ∀ a b : Word, wmul64Reference a b = BitVec.ofNat 64 (a.toNat * b.toNat)

/-- Rule R46: the lower product is exact, its three accumulations lose no carry, and they stay within
the stated maxima, which are reached with all operand bits one. -/
def Obligations.LowerProductIsExact : Prop :=
  (∀ a0 a1 b0 b1 : QuarterWord,
    (lowerSignals a0 a1 b0 b1).product.toNat =
      (a1.toNat * 65536 + a0.toNat) * (b1.toNat * 65536 + b0.toNat) ∧
    (lowerSignals a0 a1 b0 b1).t1.toNat = a0.toNat * b0.toNat / 65536 + a1.toNat * b0.toNat ∧
    (lowerSignals a0 a1 b0 b1).t2.toNat =
      (lowerSignals a0 a1 b0 b1).t1.toNat % 65536 + a0.toNat * b1.toNat ∧
    (lowerSignals a0 a1 b0 b1).h.toNat =
      (lowerSignals a0 a1 b0 b1).t1.toNat / 65536 + (lowerSignals a0 a1 b0 b1).t2.toNat / 65536 +
        a1.toNat * b1.toNat ∧
    (lowerSignals a0 a1 b0 b1).lo0.toNat = a0.toNat * b0.toNat % 65536 ∧
    (lowerSignals a0 a1 b0 b1).lo1.toNat = (lowerSignals a0 a1 b0 b1).t2.toNat % 65536 ∧
    (lowerSignals a0 a1 b0 b1).t1.toNat ≤ 0xFFFEFFFF ∧
    (lowerSignals a0 a1 b0 b1).t2.toNat ≤ 0xFFFF0000 ∧
    (lowerSignals a0 a1 b0 b1).h.toNat ≤ 0xFFFFFFFE) ∧
  (lowerSignals 0xFFFF#16 0xFFFF#16 0xFFFF#16 0xFFFF#16).t1 = 0xFFFEFFFF#32 ∧
  (lowerSignals 0xFFFF#16 0xFFFF#16 0xFFFF#16 0xFFFF#16).t2 = 0xFFFF0000#32 ∧
  (lowerSignals 0xFFFF#16 0xFFFF#16 0xFFFF#16 0xFFFF#16).h = 0xFFFFFFFE#32 ∧
  (lowerSignals 0xFFFF#16 0xFFFF#16 0xFFFF#16 0xFFFF#16).product = 0xFFFFFFFE00000001#64

/-- Rules R47, R48, R49: each cross term is the product of the two halves modulo 2^32, from the three
partial products named there, and their accumulation is the sum modulo 2^32. -/
def Obligations.CrossTermsModuloTwoToThirtyTwo : Prop :=
  ∀ a b : Word,
    (wideSignals a b).cross1.q0 = mul16 (quarter 0 a) (quarter 2 b) ∧
    (wideSignals a b).cross1.q1 = mul16 (quarter 1 a) (quarter 2 b) ∧
    (wideSignals a b).cross1.q2 = mul16 (quarter 0 a) (quarter 3 b) ∧
    (wideSignals a b).cross1.m.toNat =
      ((wideSignals a b).cross1.q1.toNat % 65536 + (wideSignals a b).cross1.q2.toNat % 65536) % 65536 ∧
    (wideSignals a b).cross1.x.toNat =
      ((wideSignals a b).cross1.q0.toNat + (wideSignals a b).cross1.m.toNat * 65536) % 2 ^ 32 ∧
    (wideSignals a b).cross1.x.toNat = (a.toNat % 2 ^ 32) * (b.toNat / 2 ^ 32) % 2 ^ 32 ∧
    (wideSignals a b).cross2.q0 = mul16 (quarter 2 a) (quarter 0 b) ∧
    (wideSignals a b).cross2.q1 = mul16 (quarter 2 a) (quarter 1 b) ∧
    (wideSignals a b).cross2.q2 = mul16 (quarter 3 a) (quarter 0 b) ∧
    (wideSignals a b).cross2.m.toNat =
      ((wideSignals a b).cross2.q1.toNat % 65536 + (wideSignals a b).cross2.q2.toNat % 65536) % 65536 ∧
    (wideSignals a b).cross2.x.toNat =
      ((wideSignals a b).cross2.q0.toNat + (wideSignals a b).cross2.m.toNat * 65536) % 2 ^ 32 ∧
    (wideSignals a b).cross2.x.toNat = (a.toNat / 2 ^ 32) * (b.toNat % 2 ^ 32) % 2 ^ 32 ∧
    (wideSignals a b).x.toNat =
      ((wideSignals a b).cross1.x.toNat + (wideSignals a b).cross2.x.toNat) % 2 ^ 32 ∧
    (wideSignals a b).x.toNat =
      ((a.toNat % 2 ^ 32) * (b.toNat / 2 ^ 32) + (a.toNat / 2 ^ 32) * (b.toNat % 2 ^ 32)) % 2 ^ 32

/-- Rule R44: the result is the lower product plus the cross terms at weight 2^32, modulo 2^64; in
bits, the lower word is that of the lower product and the upper word a 32-bit sum; the sum without
the outer modulus can pass 2^64. -/
def Obligations.TopLevelRecombination : Prop :=
  (∀ (a b : Word) (P X : Nat), P = (a.toNat % 2 ^ 32) * (b.toNat % 2 ^ 32) →
    X = ((a.toNat % 2 ^ 32) * (b.toNat / 2 ^ 32) + (a.toNat / 2 ^ 32) * (b.toNat % 2 ^ 32)) % 2 ^ 32 →
    P < 2 ^ 64 ∧ (wmul64Response a b).r.toNat = (P + X * 2 ^ 32) % 2 ^ 64 ∧
    ((wmul64Response a b).r.extractLsb' 0 32).toNat = P % 2 ^ 32 ∧
    ((wmul64Response a b).r.extractLsb' 32 32).toNat = (P / 2 ^ 32 + X) % 2 ^ 32) ∧
  ((2 ^ 64 - 1) % 2 ^ 32) * ((2 ^ 64 - 1) % 2 ^ 32) +
    (((2 ^ 64 - 1) % 2 ^ 32) * ((2 ^ 64 - 1) / 2 ^ 32) +
      ((2 ^ 64 - 1) / 2 ^ 32) * ((2 ^ 64 - 1) % 2 ^ 32)) % 2 ^ 32 * 2 ^ 32 = 0x10000000000000001

/-- Rule R42: the result bits do not depend on signedness, and are those of `MULO64`. -/
def Obligations.WideResultIgnoresSignedness : Prop :=
  ∀ a b : Word, (wmul64Response a b).r = BitVec.ofInt 64 (a.toInt * b.toInt) ∧
    (wmul64Response a b).r = (mulo64Response a b).r

/-- Rule R55: the corner cases of `WMUL64`, and its worked example through the datapath. -/
def Obligations.WideCornerCases : Prop :=
  (∀ b : Word, (wmul64Response 0#64 b).r = 0#64 ∧ (wmul64Response b 0#64).r = 0#64 ∧
    (wmul64Response 1#64 b).r = b ∧ (wmul64Response b 1#64).r = b ∧
    (wmul64Response b b).r.toNat = b.toNat ^ 2 % 2 ^ 64 ∧
    (wmul64Response 0xFFFFFFFFFFFFFFFF#64 b).r = -b ∧
    ∀ k : Nat, k ≤ 63 → (wmul64Response (BitVec.ofNat 64 (2 ^ k)) b).r = b <<< k) ∧
  (∀ a b : Word, wmul64Response a b = wmul64Response b a ∧
    (a.toNat * b.toNat < 2 ^ 64 → (wmul64Response a b).r.toNat = a.toNat * b.toNat)) ∧
  (wmul64Response 0xFFFFFFFFFFFFFFFF#64 0xFFFFFFFFFFFFFFFF#64).r = 1#64 ∧
  (wmul64Response 0x100000000#64 0x100000000#64).r = 0#64 ∧
  (wmul64Response 0xFFFFFFFF#64 0xFFFFFFFF#64).r = 0xFFFFFFFE00000001#64 ∧
  (wmul64Response 0xFFFFFFFFFFFFFFFF#64 2#64).r = 0xFFFFFFFFFFFFFFFE#64 ∧
  (wideSignals 0xFFFFFFFFFFFFFFFF#64 2#64).lower.product = 0x00000001FFFFFFFE#64 ∧
  wideSignals 0xFFFFFFFFFFFFFFFF#64 2#64 =
    { lower := { p00 := 0x0001FFFE#32, p10 := 0x0001FFFE#32, p01 := 0#32, p11 := 0#32,
                 lo0 := 0xFFFE#16, t1 := 0x0001FFFF#32, t2 := 0x0000FFFF#32, lo1 := 0xFFFF#16,
                 h := 1#32 }
      cross1 := { q0 := 0#32, q1 := 0#32, q2 := 0#32, m := 0#16, x := 0#32 }
      cross2 := { q0 := 0x0001FFFE#32, q1 := 0#32, q2 := 0x0001FFFE#32, m := 0xFFFE#16,
                  x := 0xFFFFFFFE#32 }
      x := 0xFFFFFFFE#32, u := 0xFFFFFFFF#32 }

/-! ## MULO32 and MULO64 -/

/-- Rule R61: the contract of both checked multiplies: the flag is the exact range test, the result is
the exact product when it is clear and differs from it by a nonzero multiple of 2^W when it is set. -/
def Obligations.CheckedContractIsExact : Prop :=
  (∀ (a b : Word) (E : Int), E = (a.extractLsb' 0 32).toInt * (b.extractLsb' 0 32).toInt →
    (mulo32Response a b).r = (BitVec.ofInt 32 E).signExtend 64 ∧
    ((mulo32Response a b).v = true ↔ E < -2 ^ 31 ∨ 2 ^ 31 - 1 < E) ∧
    ((mulo32Response a b).v = false → (mulo32Response a b).r.toInt = E) ∧
    ((mulo32Response a b).v = true →
      ∃ k : Int, k ≠ 0 ∧ (mulo32Response a b).r.toInt = E - k * 2 ^ 32)) ∧
  ∀ (a b : Word) (E : Int), E = a.toInt * b.toInt →
    (mulo64Response a b).r = BitVec.ofInt 64 E ∧
    ((mulo64Response a b).v = true ↔ E < -2 ^ 63 ∨ 2 ^ 63 - 1 < E) ∧
    ((mulo64Response a b).v = false → (mulo64Response a b).r.toInt = E) ∧
    ((mulo64Response a b).v = true →
      ∃ k : Int, k ≠ 0 ∧ (mulo64Response a b).r.toInt = E - k * 2 ^ 64)

/-- Rule R71 (with R62, R69): the six-step algorithm gives the contract's flag and result. -/
def Obligations.FlagPathEqualsContract : Prop :=
  (∀ a b : HalfWord, overflowsReference a b = overflows a b ∧
    muloReference a b = (wrappingProduct a b, overflows a b)) ∧
  ∀ a b : Word, overflowsReference a b = overflows a b ∧
    muloReference a b = (wrappingProduct a b, overflows a b)

/-- Rules R65, R72: outside the minimum value the sign is all zeros or all ones, the magnitude is
exact and at most `MAX(W)`, and in step 5 the divisor is at least 2 and each quotient is exact and at
most 2^(W-2): no intermediate value wraps. -/
def Obligations.FlagPathNeverWraps : Prop :=
  ∀ (W : Nat) (a b : BitVec W), W = 32 ∨ W = 64 →
    (a ≠ Config.minPattern W →
      signMask a = (if a.toInt < 0 then BitVec.allOnes W else 0#W) ∧
      (magnitude a).toNat = a.toInt.natAbs ∧ (magnitude a).toNat ≤ 2 ^ (W - 1) - 1) ∧
    (Config.maxPattern W).toNat = 2 ^ (W - 1) - 1 ∧ (Config.minPattern W).toNat = 2 ^ (W - 1) ∧
    (flagStep a b = .sameSign ∨ flagStep a b = .differentSigns →
      2 ≤ (magnitude a).toNat ∧ 2 ≤ (magnitude b).toNat ∧
      (flagBound (Config.maxPattern W) b).toNat = (2 ^ (W - 1) - 1) / b.toInt.natAbs ∧
      (flagBound (Config.minPattern W) b).toNat = 2 ^ (W - 1) / b.toInt.natAbs ∧
      (flagBound (Config.maxPattern W) b).toNat ≤ 2 ^ (W - 2) ∧
      (flagBound (Config.minPattern W) b).toNat ≤ 2 ^ (W - 2))

/-- Rules R63, R64, R66, R67, R68, R70: which step decides, and why its answer is the exact range
test of the contract. -/
def Obligations.EachStepAnswersItsCase : Prop :=
  ∀ (W : Nat) (a b : BitVec W), W = 32 ∨ W = 64 →
    (a = Config.minPattern W → flagStep a b = .aIsMin ∧ overflows a b = (b != 0#W && b != 1#W)) ∧
    (a ≠ Config.minPattern W → b = Config.minPattern W →
      flagStep a b = .bIsMin ∧ overflows a b = (a != 0#W && a != 1#W)) ∧
    (a ≠ Config.minPattern W → b ≠ Config.minPattern W →
      (a.toInt.natAbs < 2 ∨ b.toInt.natAbs < 2 → flagStep a b = .small ∧ overflows a b = false) ∧
      (2 ≤ a.toInt.natAbs → 2 ≤ b.toInt.natAbs → (a.toInt < 0 ↔ b.toInt < 0) →
        flagStep a b = .sameSign ∧ 0 < a.toInt * b.toInt ∧
        overflows a b = decide ((2 ^ (W - 1) - 1) / b.toInt.natAbs < a.toInt.natAbs)) ∧
      (2 ≤ a.toInt.natAbs → 2 ≤ b.toInt.natAbs → ¬ (a.toInt < 0 ↔ b.toInt < 0) →
        flagStep a b = .differentSigns ∧ a.toInt * b.toInt < 0 ∧
        overflows a b = decide (2 ^ (W - 1) / b.toInt.natAbs < a.toInt.natAbs)))

/-- Rule R62: the wrapping product is the low bits of `WMUL64` on any extension of the operands,
overflow or not. -/
def Obligations.CheckedProductIsTheWideProduct : Prop :=
  ∀ a b : Word, (mulo64Response a b).r = (wmul64Response a b).r ∧
    (mulo64Response a b).r = a * b ∧
    (mulo32Response a b).r.extractLsb' 0 32 = (wmul64Response a b).r.extractLsb' 0 32 ∧
    (mulo32Response a b).r.extractLsb' 0 32 = a.extractLsb' 0 32 * b.extractLsb' 0 32

/-- Rule R35: `MULO32` ignores bits 63:32 of both ports, in its response and in every state, and its
result is the sign extension of its low half. -/
def Obligations.Mulo32IgnoresUpperHalves : Prop :=
  ∀ a a' b b' : Word, a.extractLsb' 0 32 = a'.extractLsb' 0 32 →
    b.extractLsb' 0 32 = b'.extractLsb' 0 32 →
    (∀ s : State, exec (.mulo32 a b) s = exec (.mulo32 a' b') s) ∧
    (mulo32Response a b).r = ((mulo32Response a b).r.extractLsb' 0 32).signExtend 64

/-- Rule R74: the corner cases of both checked multiplies, with the step that decides each; `x` is
any value but the minimum. Then the upper halves under `MULO32` and the worked examples. -/
def Obligations.CheckedCornerCases : Prop :=
  (∀ W : Nat, W = 32 ∨ W = 64 →
    (∀ row ∈ [(Config.minInt W, 0, 0, false, FlagStep.aIsMin),
        (Config.minInt W, 1, Config.minInt W, false, .aIsMin),
        (Config.minInt W, -1, Config.minInt W, true, .aIsMin),
        (Config.minInt W, 2, 0, true, .aIsMin),
        (Config.minInt W, Config.maxInt W, Config.minInt W, true, .aIsMin),
        (Config.minInt W, Config.minInt W, 0, true, .aIsMin),
        (0, Config.minInt W, 0, false, .bIsMin),
        (1, Config.minInt W, Config.minInt W, false, .bIsMin),
        (-1, Config.minInt W, Config.minInt W, true, .bIsMin),
        (Config.maxInt W, Config.maxInt W, 1, true, .sameSign),
        (Config.maxInt W, 2, -2, true, .sameSign),
        (-Config.maxInt W, -Config.maxInt W, 1, true, .sameSign),
        (2 ^ (W / 2), 2 ^ (W / 2 - 1), Config.minInt W, true, .sameSign),
        (2 ^ (W / 2), -2 ^ (W / 2 - 1), Config.minInt W, false, .differentSigns),
        (2 ^ (W / 2) + 1, -2 ^ (W / 2 - 1), Config.maxInt W - 2 ^ (W / 2 - 1) + 1, true,
          .differentSigns)],
      (wrappingProduct (BitVec.ofInt W row.1) (BitVec.ofInt W row.2.1)).toInt = row.2.2.1 ∧
      overflows (BitVec.ofInt W row.1) (BitVec.ofInt W row.2.1) = row.2.2.2.1 ∧
      flagStep (BitVec.ofInt W row.1) (BitVec.ofInt W row.2.1) = row.2.2.2.2) ∧
    (∀ x : BitVec W, x ≠ Config.minPattern W → ∀ c : Int, c = 0 ∨ c = 1 ∨ c = -1 →
      (wrappingProduct (BitVec.ofInt W c) x).toInt = c * x.toInt ∧
      overflows (BitVec.ofInt W c) x = false ∧ flagStep (BitVec.ofInt W c) x = .small ∧
      (wrappingProduct x (BitVec.ofInt W c)).toInt = c * x.toInt ∧
      overflows x (BitVec.ofInt W c) = false ∧ flagStep x (BitVec.ofInt W c) = .small) ∧
    (∀ x : BitVec W, wrappingProduct x x = BitVec.ofInt W (x.toInt ^ 2) ∧
      overflows x x = decide (Config.maxInt W < x.toInt ^ 2)) ∧
    ∀ x y : BitVec W, wrappingProduct x y = wrappingProduct y x ∧ overflows x y = overflows y x ∧
      (flagStep x y = .aIsMin → y ≠ Config.minPattern W → flagStep y x = .bIsMin) ∧
      (flagStep x y = .bIsMin → flagStep y x = .aIsMin)) ∧
  (∀ a a' b b' : Word, a.extractLsb' 0 32 = a'.extractLsb' 0 32 →
    b.extractLsb' 0 32 = b'.extractLsb' 0 32 → mulo32Response a b = mulo32Response a' b') ∧
  (∀ b : Word, mulo32Response 0x0000000080000000#64 b = mulo32Response 0xFFFFFFFF80000000#64 b) ∧
  mulo32Response 0xFFFFFFFF80000000#64 0xFFFFFFFFFFFFFFFF#64 =
    { r := 0xFFFFFFFF80000000#64, v := true } ∧
  flagStep 0x80000000#32 0xFFFFFFFF#32 = .aIsMin ∧
  mulo32Response 2000000000#64 2#64 = { r := 0xFFFFFFFFEE6B2800#64, v := true } ∧
  flagStep 2000000000#32 2#32 = .sameSign ∧ magnitude 2000000000#32 = 0x77359400#32 ∧
  magnitude 2#32 = 2#32 ∧ flagBound (Config.maxPattern 32) 2#32 = 0x3FFFFFFF#32 ∧
  mulo64Response 3#64 4#64 = { r := 12#64, v := false } ∧
  flagStep 3#64 4#64 = .sameSign ∧ flagBound (Config.maxPattern 64) 4#64 = 0x1FFFFFFFFFFFFFFF#64

/-- `95_test_vectors.md` section 2.7: exchanging the operands changes no response. -/
def Obligations.ResponsesCommute : Prop :=
  ∀ (o : Op) (a b : Word), responseOf (o.instr a b) = responseOf (o.instr b a)

/-- `95_test_vectors.md` section 2.7: a 32-bit product overflows exactly when the 64-bit product of
the sign-extended operands differs from it, and that one never overflows. -/
def Obligations.NarrowOverflowSeenInSixtyFourBits : Prop :=
  ∀ (a b x y : Word), x = (a.extractLsb' 0 32).signExtend 64 → y = (b.extractLsb' 0 32).signExtend 64 →
    (mulo64Response x y).v = false ∧
    ((mulo32Response a b).v = false ↔ (mulo64Response x y).r = (mulo32Response a b).r)

/-- `95_test_vectors.md` section 2.7: an overflow has neither operand 0 or 1, and with an operand -1
the other is the minimum. -/
def Obligations.OverflowOperandsAreNotSmall : Prop :=
  ∀ (W : Nat) (a b : BitVec W), W = 32 ∨ W = 64 → overflows a b = true →
    a.toInt ≠ 0 ∧ a.toInt ≠ 1 ∧ b.toInt ≠ 0 ∧ b.toInt ≠ 1 ∧
    (a.toInt = -1 → b.toInt = Config.minInt W) ∧ (b.toInt = -1 → a.toInt = Config.minInt W)

/-- Rule R36: bit 64 of the response word is 0 for `WMUL64` always, and for a checked multiply it is 1
exactly when the exact product is out of range. -/
def Obligations.FlagBitOfTheResponseWord : Prop :=
  ∀ a b : Word,
    (responseOf (.wmul64 a b)).word.extractLsb' 64 1 = 0#1 ∧
    (responseOf (.mulo32 a b)).word.extractLsb' 64 1 =
      (if (a.extractLsb' 0 32).toInt * (b.extractLsb' 0 32).toInt < -2147483648 ∨
        2147483647 < (a.extractLsb' 0 32).toInt * (b.extractLsb' 0 32).toInt then 1#1 else 0#1) ∧
    (responseOf (.mulo64 a b)).word.extractLsb' 64 1 =
      (if a.toInt * b.toInt < -9223372036854775808 ∨ 9223372036854775807 < a.toInt * b.toInt
        then 1#1 else 0#1)

/-! ## The written form -/

/-- Rules R35, R37: whatever the assembler accepts, it emits in canonical form. The lexical details of
a line are the model's choice (log entry 11). -/
def Obligations.AssembledLinesAreCanonical : Prop :=
  ∀ (line : List Char) (i : Instr), assembleLine line = some i → i.canonical = true

/-- Rule R37: a decimal literal or a symbolic name is accepted exactly when it lies in the operation's
operand type, and the field then has that value, read unsigned for `WMUL64` and signed for the checked
multiplies. A hexadecimal literal is the unsigned value of a `WMUL64` operand and the bit pattern of
width W of a checked multiply's, which `MULO32` carries sign extended; so `MULO32 0x80000000` has the
operand `MIN(32)`. That a hexadecimal literal wider than W is refused is the model's choice (log
entry 11). -/
def Obligations.IntegerLiteralsKeepTheirValue : Prop :=
  (∀ n : Int,
    ((∃ w : Word, assembleOperand .wmul64 (.int n) = some w) ↔ 0 ≤ n ∧ n ≤ 2 ^ 64 - 1) ∧
    ((∃ w : Word, assembleOperand .mulo64 (.int n) = some w) ↔ -2 ^ 63 ≤ n ∧ n ≤ 2 ^ 63 - 1) ∧
    ((∃ w : Word, assembleOperand .mulo32 (.int n) = some w) ↔ -2 ^ 31 ≤ n ∧ n ≤ 2 ^ 31 - 1) ∧
    ∀ w : Word, (assembleOperand .wmul64 (.int n) = some w → (w.toNat : Int) = n) ∧
      (assembleOperand .mulo64 (.int n) = some w → w.toInt = n) ∧
      (assembleOperand .mulo32 (.int n) = some w → w.toInt = n)) ∧
  (∀ n : Nat,
    ((∃ w : Word, assembleOperand .wmul64 (.pattern n) = some w) ↔ n < 2 ^ 64) ∧
    ((∃ w : Word, assembleOperand .mulo64 (.pattern n) = some w) ↔ n < 2 ^ 64) ∧
    ((∃ w : Word, assembleOperand .mulo32 (.pattern n) = some w) ↔ n < 2 ^ 32) ∧
    ∀ w : Word, (assembleOperand .wmul64 (.pattern n) = some w → w.toNat = n) ∧
      (assembleOperand .mulo64 (.pattern n) = some w → w.toNat = n) ∧
      (assembleOperand .mulo32 (.pattern n) = some w → (w.extractLsb' 0 32).toNat = n ∧
        w = (w.extractLsb' 0 32).signExtend 64)) ∧
  assembleOperand .mulo32 (.pattern 0x80000000) = some 0xFFFFFFFF80000000#64 ∧
  (0xFFFFFFFF80000000#64).toInt = -2147483648

/-- Rule R37: the mnemonic form and the entry-point form of a request are equivalent. -/
def Obligations.BothWrittenFormsAgree : Prop :=
  ∀ (o : Op) (mnemonic call a b : List Char), opOfMnemonic mnemonic = some o → opOfCall call = some o →
    assembleTokens [.word mnemonic, .word a, .comma, .word b] =
      assembleTokens [.word call, .lparen, .word a, .comma, .word b, .rparen]
end

