-- ==== Sys2Proof/Laws/Arith.lean ====
section
/-! SUPPORT. The values of the model's arithmetic primitives as natural numbers and integers. -/

namespace Sys2Proof.Machine

/-- A partial product is the product of the two quarter-words: it never wraps (rule R45). -/
theorem mul16_toNat (x y : QuarterWord) : (mul16 x y).toNat = x.toNat * y.toNat := by
  have h : x.toNat * y.toNat < 2 ^ 32 :=
    Nat.lt_of_le_of_lt (Nat.mul_le_mul (Nat.le_sub_one_of_lt x.isLt) (Nat.le_sub_one_of_lt y.isLt))
      (by decide)
  have hx : x.toNat < 2 ^ 32 := Nat.lt_trans x.isLt (by decide)
  have hy : y.toNat < 2 ^ 32 := Nat.lt_trans y.isLt (by decide)
  simp only [mul16, BitVec.toNat_mul, BitVec.truncate_eq_setWidth, BitVec.toNat_setWidth,
    Nat.mod_eq_of_lt hx, Nat.mod_eq_of_lt hy, Nat.mod_eq_of_lt h]

/-- Quarter-word `i` as a number (rule R43). -/
theorem quarter_toNat (i : Nat) (x : Word) : (quarter i x).toNat = x.toNat / 2 ^ (16 * i) % 2 ^ 16 := by
  simp [quarter, BitVec.extractLsb'_toNat, Nat.shiftRight_eq_div_pow]

/-- The low 16 bits as a number. -/
theorem low16_toNat (x : HalfWord) : (low16 x).toNat = x.toNat % 65536 := by
  simp [low16, BitVec.extractLsb'_toNat]

/-- The high 16 bits as a number. -/
theorem high16_toNat (x : HalfWord) : (high16 x).toNat = x.toNat / 65536 := by
  have h := x.isLt
  simp [high16, BitVec.extractLsb'_toNat, Nat.shiftRight_eq_div_pow]
  omega

/-- The wrapping product of the contract is the machine's product (rules R61, R62). -/
theorem wrappingProduct_eq_mul {W : Nat} (a b : BitVec W) : wrappingProduct a b = a * b := by
  simp [wrappingProduct, signedProduct, BitVec.ofInt_mul]

/-- The flag of the contract, as a range test (rule R61). -/
theorem overflows_eq_true_iff {W : Nat} (a b : BitVec W) :
    overflows a b = true ↔ a.toInt * b.toInt < Config.minInt W ∨ Config.maxInt W < a.toInt * b.toInt := by
  simp only [overflows, outOfRange, signedProduct, Bool.or_eq_true]
  exact or_congr decide_eq_true_iff decide_eq_true_iff

/-- The bit pattern of `MIN(W)` as an unsigned number (rule R5). -/
theorem minPattern_toNat {W : Nat} (hW : 0 < W) : (Config.minPattern W).toNat = 2 ^ (W - 1) := by
  simp only [Config.minPattern, BitVec.toNat_ofNat]
  exact Nat.mod_eq_of_lt (Nat.pow_lt_pow_right (by decide) (by omega))

/-- The bit pattern of `MAX(W)` as an unsigned number (rule R5). -/
theorem maxPattern_toNat {W : Nat} (hW : 0 < W) : (Config.maxPattern W).toNat = 2 ^ (W - 1) - 1 := by
  simp only [Config.maxPattern, BitVec.toNat_ofNat]
  have h : 2 ^ (W - 1) < 2 ^ W := Nat.pow_lt_pow_right (by decide) (by omega)
  exact Nat.mod_eq_of_lt (Nat.lt_of_le_of_lt (Nat.sub_le _ _) h)

end Sys2Proof.Machine
end

