-- ==== Sys2Proof/Laws/Assembler.lean ====
section
/-! SUPPORT. What the assembler's shared operations can answer, said once each. -/

namespace Sys2Proof.Machine

/-- An operand assembles exactly when its literal is of the operation's type, and to that literal's
field (rule R37). -/
theorem assembleOperand_eq_some_iff (o : Op) (l : Literal) (w : Word) :
    assembleOperand o l = some w ↔ literalInType o l = true ∧ literalField o l = w := by
  unfold assembleOperand
  cases literalInType o l <;> simp

/-- An instruction assembles exactly when both operands do, and carries their fields (rule R37). -/
theorem assemble_eq_some_iff (o : Op) (la lb : Literal) (i : Instr) :
    assemble o la lb = some i ↔
      literalInType o la = true ∧ literalInType o lb = true ∧
        o.instr (literalField o la) (literalField o lb) = i := by
  unfold assemble assembleOperand
  cases literalInType o la <;> cases literalInType o lb <;> simp

end Sys2Proof.Machine
end

