-- ==== Sys2Proof/Laws/Decode.lean ====
section
/-! SUPPORT. Small lemmas of the decoder: the codes and the placing of the fields. -/

namespace Sys2Proof

/-- The code of an operation selects that operation (rule R33). -/
@[simp] theorem Op.ofCode_code (o : Op) : Op.ofCode o.code = some o := by
  cases o <;> rfl

/-- The reserved code selects no operation (rule R34). -/
@[simp] theorem Op.ofCode_reserved : Op.ofCode 0b11#2 = none := rfl

/-- A code selects an operation exactly when it is that operation's code. -/
theorem Op.ofCode_eq_some_iff (c : OpCode) (o : Op) : Op.ofCode c = some o ↔ c = o.code := by
  revert c
  cases o <;> decide

/-- A code selects no operation exactly when it is the reserved one. -/
theorem Op.ofCode_eq_none_iff (c : OpCode) : Op.ofCode c = none ↔ c = 0b11#2 := by
  revert c
  decide

/-- An operation and two operands make an instruction of that operation. -/
@[simp] theorem Op.instr_op (o : Op) (a b : Word) : (o.instr a b).op = o := by cases o <;> rfl

/-- The first operand of that instruction. -/
@[simp] theorem Op.instr_a (o : Op) (a b : Word) : (o.instr a b).a = a := by cases o <;> rfl

/-- The second operand of that instruction. -/
@[simp] theorem Op.instr_b (o : Op) (a b : Word) : (o.instr a b).b = b := by cases o <;> rfl

/-- An instruction is made of its operation and its operands. -/
@[simp] theorem Instr.op_instr (i : Instr) : i.op.instr i.a i.b = i := by cases i <;> rfl

/-- The bits of a request word (rule R31). -/
theorem Request.word_getLsbD (q : Request) (i : Nat) :
    q.word.getLsbD i =
      if i < 64 then q.b.getLsbD i
      else if i < 128 then q.a.getLsbD (i - 64)
      else q.op.getLsbD (i - 128) := by
  show BitVec.getLsbD (w := 2 + 64 + 64) (q.op ++ q.a ++ q.b) i = _
  simp only [BitVec.getLsbD_append]
  split
  · rfl
  · by_cases h : i < 128
    · rw [if_pos h, if_pos (by omega)]
    · rw [if_neg h, if_neg (by omega), show i - 64 - 64 = i - 128 by omega]

/-- The bits of the fields of a request word (rule R31). -/
theorem Request.ofWord_getLsbD (w : RequestWord) (i : Nat) :
    (Request.ofWord w).op.getLsbD i = (decide (i < 2) && w.getLsbD (128 + i)) ∧
    (Request.ofWord w).a.getLsbD i = (decide (i < 64) && w.getLsbD (64 + i)) ∧
    (Request.ofWord w).b.getLsbD i = (decide (i < 64) && w.getLsbD i) := by
  simp [Request.ofWord, BitVec.getLsbD_extractLsb']

/-- The bits of a response word (rule R32). -/
theorem Response.word_getLsbD (x : Response) (i : Nat) :
    x.word.getLsbD i = if i < 64 then x.r.getLsbD i else (decide (i = 64) && x.v) := by
  show BitVec.getLsbD (w := 1 + 64) (BitVec.ofBool x.v ++ x.r) i = _
  simp only [BitVec.getLsbD_append, BitVec.getLsbD_ofBool]
  split
  · rfl
  · congr 1
    exact decide_eq_decide.mpr (by omega)

end Sys2Proof
end

