-- ==== Sys2Proof/Laws/State.lean ====
section
/-! SUPPORT. One lemma for each field of the state after each update, and for the derived views. -/

namespace Sys2Proof.Machine

@[simp] theorem State.advanceHost_ports (s : State) : s.advanceHost.ports = s.host.headD Ports.idle := rfl
@[simp] theorem State.advanceHost_host (s : State) : s.advanceHost.host = s.host.tail := rfl
@[simp] theorem State.advanceHost_pipe (s : State) : s.advanceHost.pipe = s.pipe := rfl
@[simp] theorem State.advanceHost_responses (s : State) : s.advanceHost.responses = s.responses := rfl

@[simp] theorem State.clock_ports (e : Option Response) (s : State) :
    (s.clock e).ports = s.host.headD Ports.idle := rfl
@[simp] theorem State.clock_host (e : Option Response) (s : State) : (s.clock e).host = s.host.tail := rfl
@[simp] theorem State.clock_pipe (e : Option Response) (s : State) :
    (s.clock e).pipe = pipeAfter e s.pipe := rfl
@[simp] theorem State.clock_responses (e : Option Response) (s : State) :
    (s.clock e).responses = s.responses ++ (pipeOutput e s.pipe).toList := rfl

@[simp] theorem State.resetEdge_ports (s : State) : s.resetEdge.ports = s.host.headD Ports.idle := rfl
@[simp] theorem State.resetEdge_host (s : State) : s.resetEdge.host = s.host.tail := rfl
@[simp] theorem State.resetEdge_pipe (s : State) :
    s.resetEdge.pipe = List.replicate s.latency none := rfl
@[simp] theorem State.resetEdge_responses (s : State) : s.resetEdge.responses = s.responses := rfl

@[simp] theorem State.withFetchWord_ports (s : State) (nbits w : Nat) :
    (s.withFetchWord nbits w).ports =
      { rst := false, reqValid := true, req := Request.ofWord (tableWord nbits w) } := rfl
@[simp] theorem State.withFetchWord_host (s : State) (nbits w : Nat) :
    (s.withFetchWord nbits w).host = s.host := rfl
@[simp] theorem State.withFetchWord_pipe (s : State) (nbits w : Nat) :
    (s.withFetchWord nbits w).pipe = s.pipe := rfl
@[simp] theorem State.withFetchWord_responses (s : State) (nbits w : Nat) :
    (s.withFetchWord nbits w).responses = s.responses := rfl

@[simp] theorem State.driving_ports (ps : List Ports) (s : State) :
    (s.driving ps).ports = ps.headD Ports.idle := rfl
@[simp] theorem State.driving_host (ps : List Ports) (s : State) : (s.driving ps).host = ps.tail := rfl
@[simp] theorem State.driving_pipe (ps : List Ports) (s : State) : (s.driving ps).pipe = s.pipe := rfl
@[simp] theorem State.driving_responses (ps : List Ports) (s : State) :
    (s.driving ps).responses = s.responses := rfl

@[simp] theorem State.powerUp_ports (n : Nat) : (State.powerUp n).ports = Ports.idle := rfl
@[simp] theorem State.powerUp_host (n : Nat) : (State.powerUp n).host = [] := rfl
@[simp] theorem State.powerUp_pipe (n : Nat) : (State.powerUp n).pipe = List.replicate n none := rfl
@[simp] theorem State.powerUp_responses (n : Nat) : (State.powerUp n).responses = [] := rfl

@[simp] theorem Ports.idle_rst : Ports.idle.rst = false := rfl
@[simp] theorem Ports.idle_reqValid : Ports.idle.reqValid = false := rfl

@[simp] theorem Ports.present_rst (q : Request) : (Ports.present q).rst = false := rfl
@[simp] theorem Ports.present_reqValid (q : Request) : (Ports.present q).reqValid = true := rfl
@[simp] theorem Ports.present_req (q : Request) : (Ports.present q).req = q := rfl

/-- A machine has a reset input exactly when its pipeline has a stage. -/
theorem State.hasClockReset_eq_true_iff (s : State) : s.hasClockReset = true ↔ s.pipe ≠ [] := by
  simp [State.hasClockReset, State.latency]

/-- A machine without stages has no reset input. -/
theorem State.hasClockReset_of_pipe_nil {s : State} (h : s.pipe = []) : s.hasClockReset = false := by
  simp [State.hasClockReset, State.latency, h]

end Sys2Proof.Machine
end

