-- ==== Sys2Proof/Laws/Ops.lean ====
section
/-! SUPPORT. What each shared operation does, said once: the pipeline, the cycle an edge finds, and
the possible answers of an instruction and of a step. -/

namespace Sys2Proof.Machine

/-- With no stages nothing is held. -/
@[simp] theorem pipeAfter_nil (e : Option Response) : pipeAfter e [] = [] := rfl

/-- With no stages the entry passes through. -/
@[simp] theorem pipeOutput_nil (e : Option Response) : pipeOutput e [] = e := rfl

/-- With stages the entry becomes the newest one and the oldest one goes. -/
@[simp] theorem pipeAfter_concat (e last : Option Response) (front : List (Option Response)) :
    pipeAfter e (front ++ [last]) = e :: front := by
  simp only [pipeAfter, ← List.cons_append, List.dropLast_concat]

/-- With stages the oldest one leaves. -/
@[simp] theorem pipeOutput_concat (e last : Option Response) (front : List (Option Response)) :
    pipeOutput e (front ++ [last]) = last := by
  simp only [pipeOutput, ← List.cons_append, List.getLastD_concat]

/-- An edge keeps the number of stages. -/
@[simp] theorem pipeAfter_length (e : Option Response) (pipe : List (Option Response)) :
    (pipeAfter e pipe).length = pipe.length := by
  simp [pipeAfter]

/-- Nothing is lost and nothing is made at an edge: the stages afterwards with what left behind them
are the entry in front of the stages before. -/
theorem pipeAfter_append_pipeOutput (e : Option Response) (pipe : List (Option Response)) :
    pipeAfter e pipe ++ [pipeOutput e pipe] = e :: pipe := by
  rcases List.eq_nil_or_concat pipe with rfl | ⟨front, last, rfl⟩
  · rfl
  · simp

/-- An edge keeps `LATENCY`. -/
@[simp] theorem State.clock_latency (e : Option Response) (s : State) :
    (s.clock e).latency = s.latency := by
  simp [State.latency]

/-- A reset edge keeps `LATENCY`. -/
@[simp] theorem State.resetEdge_latency (s : State) : s.resetEdge.latency = s.latency := by
  simp [State.latency]

/-- An edge is in reset exactly when the machine has a reset input and it is asserted. -/
theorem State.cycle_eq_inReset_iff (s : State) :
    s.cycle = .inReset ↔ s.pipe ≠ [] ∧ s.ports.rst = true := by
  rw [← State.hasClockReset_eq_true_iff]
  unfold State.cycle
  cases s.hasClockReset <;> cases s.ports.rst <;> cases s.ports.reqValid <;> simp

/-- An edge is idle exactly when it is outside reset and no request is presented. -/
theorem State.cycle_eq_idle_iff (s : State) :
    s.cycle = .idle ↔ (s.pipe = [] ∨ s.ports.rst = false) ∧ s.ports.reqValid = false := by
  have h := State.hasClockReset_eq_true_iff s
  unfold State.cycle
  by_cases hp : s.pipe = [] <;> simp only [hp, ne_eq, not_true, not_false_iff, iff_true, iff_false] at h <;>
    cases s.ports.rst <;> cases s.ports.reqValid <;> simp_all

/-- An edge accepts a request exactly when it is outside reset and one is presented. -/
theorem State.cycle_eq_request_iff (s : State) (w : RequestWord) :
    s.cycle = .request w ↔
      (s.pipe = [] ∨ s.ports.rst = false) ∧ s.ports.reqValid = true ∧ s.ports.req.word = w := by
  have h := State.hasClockReset_eq_true_iff s
  unfold State.cycle
  by_cases hp : s.pipe = [] <;> simp only [hp, ne_eq, not_true, not_false_iff, iff_true, iff_false] at h <;>
    cases s.ports.rst <;> cases s.ports.reqValid <;> simp_all

/-- Accepting a request answers the state after the edge. -/
@[simp] theorem respond_eq_next (x : Response) (s : State) : respond x s = .next (s.clock (some x)) := rfl

/-- Every instruction answers its own response. -/
theorem exec_eq_next (i : Instr) (s : State) : exec i s = .next (s.clock (some (responseOf i))) := by
  cases i <;> rfl

/-- All that a step which answers can have done: a reset edge, an idle one, or an accepted request
that decodes to an instruction. -/
theorem step_eq_next_cases {s t : State} (h : step s = .next t) :
    (s.cycle = .inReset ∧ t = s.resetEdge) ∨ (s.cycle = .idle ∧ t = s.clock none) ∨
      ∃ w i, s.cycle = .request w ∧ decode w = .ok i ∧ t = s.clock (some (responseOf i)) := by
  unfold step at h
  split at h
  · next hc => exact .inl ⟨hc, by injection h with h; exact h.symm⟩
  · next hc => exact .inr (.inl ⟨hc, by injection h with h; exact h.symm⟩)
  · next w hc =>
    split at h
    · next i hd =>
      rw [exec_eq_next] at h
      exact .inr (.inr ⟨w, i, hc, hd, by injection h with h; exact h.symm⟩)
    · cases h

end Sys2Proof.Machine
end

