-- ==== Sys2Proof/Laws/PerInstr.lean ====
section
/-! SUPPORT. Statements for all instructions, one lemma per constructor. -/

namespace Sys2Proof.Laws

/-- The encoding of an instruction matches its own row of the opcode table (rule R33). -/
def EncodeMatchesRow.Statement (i : Instr) : Prop := encode i &&& opMask = i.op.matchWord

/-- The mask keeps the operation select and clears both operands. -/
theorem encode_and_opMask (i : Instr) :
    encode i &&& opMask = (i.op.code ++ (0#64 : Word) ++ (0#64 : Word) : RequestWord) := by
  have hm : opMask = (0b11#2 ++ (0#64 : Word) ++ (0#64 : Word) : RequestWord) := by decide
  have hc : ∀ c : OpCode, c &&& 0b11#2 = c := by decide
  rw [hm]
  show (i.op.code ++ i.a ++ i.b : RequestWord) &&& _ = _
  rw [BitVec.and_append, BitVec.and_append, hc, BitVec.and_zero, BitVec.and_zero]

/-- The code of an operation in the place of `op`, with operands of zeros, is its match value. -/
theorem code_append_zeros (o : Op) :
    (o.code ++ (0#64 : Word) ++ (0#64 : Word) : RequestWord) = o.matchWord := by
  cases o <;> decide

theorem EncodeMatchesRow.wmul64 (a b : Word) : EncodeMatchesRow.Statement (.wmul64 a b) :=
  (encode_and_opMask _).trans (code_append_zeros _)

theorem EncodeMatchesRow.mulo32 (a b : Word) : EncodeMatchesRow.Statement (.mulo32 a b) :=
  (encode_and_opMask _).trans (code_append_zeros _)

theorem EncodeMatchesRow.mulo64 (a b : Word) : EncodeMatchesRow.Statement (.mulo64 a b) :=
  (encode_and_opMask _).trans (code_append_zeros _)

end Sys2Proof.Laws
end

