-- ==== Sys2Proof/Laws/Safety.lean ====
section
/-! SUPPORT. What an edge does to the requests still presented and to the responses received and in
flight. -/

namespace Sys2Proof.Machine

/-- A pipeline reset or just powered up holds no response. -/
@[simp] theorem State.resetEdge_inFlight (s : State) : s.resetEdge.inFlight = [] := by
  simp [State.inFlight]

/-- After power-up nothing is in flight. -/
@[simp] theorem State.powerUp_inFlight (n : Nat) : (State.powerUp n).inFlight = [] := by
  simp [State.inFlight]

/-- At an edge outside reset what was received and in flight stays, in order, and the entry comes
last. -/
theorem State.clock_responses_append_inFlight (e : Option Response) (s : State) :
    (s.clock e).responses ++ (s.clock e).inFlight = s.responses ++ s.inFlight ++ e.toList := by
  rcases List.eq_nil_or_concat s.pipe with hp | ⟨front, last, hp⟩
  · simp [State.inFlight, hp]
  · cases last <;> cases e <;> simp [State.inFlight, hp]

/-- The requests a list of port values presents. -/
theorem State.presented_eq (s : State) :
    s.presented = (if s.ports.reqValid then [s.ports.req] else []) ++
      s.host.filterMap fun p => if p.reqValid then some p.req else none := by
  cases h : s.ports.reqValid <;> simp [State.presented, State.inputs, h]

/-- When the host moves on, what was on the ports is no longer presented and the rest still is. -/
theorem State.advanceHost_presented (s : State) :
    s.advanceHost.presented = s.host.filterMap fun p => if p.reqValid then some p.req else none := by
  cases h : s.host <;> simp [State.presented, State.inputs, h]

/-- Outside reset and in reset alike, an edge moves the host on. -/
@[simp] theorem State.clock_presented (e : Option Response) (s : State) :
    (s.clock e).presented = s.advanceHost.presented := rfl
@[simp] theorem State.resetEdge_presented (s : State) :
    s.resetEdge.presented = s.advanceHost.presented := rfl

/-- What is still presented after an edge was presented before. -/
theorem State.mem_presented_of_advanceHost {s : State} {q : Request}
    (h : q ∈ s.advanceHost.presented) : q ∈ s.presented := by
  rw [State.advanceHost_presented] at h
  rw [State.presented_eq]
  exact List.mem_append_right _ h

end Sys2Proof.Machine
end

