-- ==== Sys2Proof/Tests/Slice0.lean ====
section
/-! SUPPORT. Tests. Expected values are those of `spec/95_test_vectors.md` (named by its row) or are
worked out by hand from the rule named. After them, for every statement with hypotheses, a witness
that meets all of them together. -/

namespace Sys2Proof.Tests

open Sys2Proof Sys2Proof.Machine

/-- The machine with these pipeline stages, the host presenting one request and then idling. -/
def presenting (pipe : List (Option Response)) (i : Instr) : State :=
  { ports := Ports.present i.request, host := [], pipe := pipe, responses := [] }

/-- What the host has received after a step, and nothing if the step stops. -/
def received (o : Host.Outcome State Fault Refusal) : List Response :=
  match o with
  | .next t => t.responses
  | .fault _ => []
  | .refused _ => []

/-- The pipeline after a step, and nothing if the step stops. -/
def stages (o : Host.Outcome State Fault Refusal) : List (Option Response) :=
  match o with
  | .next t => t.pipe
  | .fault _ => []
  | .refused _ => []

/-- The instruction a word decodes to. -/
def decoded (w : RequestWord) : Option Instr :=
  match decode w with
  | .ok i => some i
  | .error _ => none

/-! ## Well-formedness -/

theorem test_reserved_request_is_not_legal : Request.legal { op := 0b11#2, a := 3#64, b := 7#64 } = false := by
  decide
theorem test_defined_request_is_legal : Request.legal { op := 0b10#2, a := 3#64, b := 7#64 } = true := by
  decide
theorem test_program_with_reserved_request_is_not_legal :
    Request.programLegal [{ op := 0#2, a := 1#64, b := 1#64 }, { op := 0b11#2, a := 1#64, b := 1#64 }] = false := by
  decide
theorem test_zero_extended_minimum_is_not_canonical :
    Instr.canonical (.mulo32 0x80000000#64 0xFFFFFFFF#64) = false := by decide
theorem test_sign_extended_minimum_is_canonical :
    Instr.canonical (.mulo32 0xFFFFFFFF80000000#64 0xFFFFFFFFFFFFFFFF#64) = true := by decide
theorem test_literal_out_of_type :
    literalInType .mulo32 (.int 2147483648) = false ∧ literalInType .wmul64 (.int (-1)) = false ∧
      literalInType .mulo64 (.pattern (2 ^ 64)) = false := by decide

/-! ## Decoding: words of sections 1.2, 2.5 and 2.6 -/

theorem test_decode_E1 : decoded 0x0FFFFFFFFFFFFFFFF0000000000000002#130 =
    some (.wmul64 0xFFFFFFFFFFFFFFFF#64 2#64) := by decide
theorem test_decode_E3 : decoded 0x1FFFFFFFF80000000FFFFFFFFFFFFFFFF#130 =
    some (.mulo32 0xFFFFFFFF80000000#64 0xFFFFFFFFFFFFFFFF#64) := by decide
theorem test_decode_non_canonical : decoded 0x1123456780000000CFFFFFFFF00000005#130 =
    some (.mulo32 0x123456780000000C#64 0xFFFFFFFF00000005#64) := by decide
theorem test_decode_E6 : decoded 0x200000000000000030000000000000004#130 = some (.mulo64 3#64 4#64) := by
  decide
theorem test_decode_reserved : decoded 0x3FFFFFFFFFFFFFFFFFFFFFFFFFFFFFFFF#130 = none := by decide
theorem test_table_word : decodeTableWord 136 0x28000000000000000FFFFFFFFFFFFFFFF =
    some (.mulo64 0x8000000000000000#64 0xFFFFFFFFFFFFFFFF#64) := by decide
theorem test_response_word : Response.word { r := 0xFFFFFFFF80000000#64, v := true } =
    0x1FFFFFFFF80000000#65 := by decide

/-! ## One step of each instruction -/

/-- Row E1. -/
theorem test_wmul64_wraps : received (step (State.reset.withFetchWord 136
    0x0FFFFFFFFFFFFFFFF0000000000000002)) = [{ r := 0xFFFFFFFFFFFFFFFE#64, v := false }] := by decide
/-- Row W15, in a pipeline of two stages: the response goes in at the first. -/
theorem test_wmul64_enters_pipeline :
    stages (step (presenting [none, none] (.wmul64 0x123456789ABCDEF0#64 0x0FEDCBA987654321#64))) =
      [some { r := 0x2236D88FE5618CF0#64, v := false }, none] := by decide
/-- Row E3. -/
theorem test_mulo32_minimum_times_minus_one : received (step (State.reset.withFetchWord 136
    0x1FFFFFFFF80000000FFFFFFFFFFFFFFFF)) = [{ r := 0xFFFFFFFF80000000#64, v := true }] := by decide
/-- Row S28: the exact product is `MIN(32)`, so there is no overflow. -/
theorem test_mulo32_exactly_minimum :
    received (step (presenting [] (.mulo32 0x10000#64 0xFFFFFFFFFFFF8000#64))) =
      [{ r := 0xFFFFFFFF80000000#64, v := false }] := by decide
/-- Row L33: the exact product is `MIN(64) - 1`. -/
theorem test_mulo64_below_minimum :
    received (step (presenting [] (.mulo64 3#64 0xD555555555555555#64))) =
      [{ r := 0x7FFFFFFFFFFFFFFF#64, v := true }] := by decide
/-- Row L19: the largest square that fits. -/
theorem test_mulo64_largest_square :
    received (step (presenting [] (.mulo64 3037000499#64 3037000499#64))) =
      [{ r := 0x7FFFFFFE9EA1DC29#64, v := false }] := by decide

/-! ## The reference datapaths and the written form -/

/-- Row W15, every intermediate. -/
theorem test_datapath_W15 :
    wideSignals 0x123456789ABCDEF0#64 0x0FEDCBA987654321#64 =
      { lower := { p00 := 0x3A758CF0#32, p10 := 0x2893263C#32, p01 := 0x75E884B0#32, p11 := 0x51D6302C#32,
                   lo0 := 0x8CF0#16, t1 := 0x289360B1#32, t2 := 0x75E8E561#32, lo1 := 0xE561#16,
                   h := 0x51D6CEA7#32 }
        cross1 := { q0 := 0xB15B7C70#32, q1 := 0x7B193A1C#32, q2 := 0x0DDE7430#32, m := 0xAE4C#16,
                    x := 0x5FA77C70#32 }
        cross2 := { q0 := 0x16AC8D78#32, q1 := 0x2DBB6558#32, q2 := 0x04C5F4B4#32, m := 0x5A0C#16,
                    x := 0x70B88D78#32 }
        x := 0xD06009E8#32, u := 0x2236D88F#32 } := by decide
/-- Row S39: step 5, different signs, `MINW /u mb = 2`. -/
theorem test_flag_path_S39 :
    flagStep 3#32 0xD5555555#32 = .differentSigns ∧
      flagBound (Config.minPattern 32) 0xD5555555#32 = 2#32 ∧
      overflowsReference 3#32 0xD5555555#32 = true := by decide
/-- Rule R37: both forms, an underscore, a symbolic name. -/
theorem test_assemble_lines :
    assembleLine "MULO32 INT32_MIN, -1".toList =
      some (.mulo32 0xFFFFFFFF80000000#64 0xFFFFFFFFFFFFFFFF#64) ∧
    assembleLine "mul_overflow_i32(2_000_000_000, 2)".toList = some (.mulo32 0x77359400#64 2#64) ∧
    assembleLine "WMUL64 -1, 2".toList = none := by decide
/-- Log entry 11: no comment is known, so text after a request voids the program text. -/
theorem test_assemble_text :
    assembleText "WMUL64 3, 7\n\nMULO64 3, 4\n".toList = some [.wmul64 3#64 7#64, .mulo64 3#64 4#64] ∧
    assembleText "WMUL64 3, 7 -- carried\n".toList = none := by decide
/-- Row E5 as rule R37 writes its response. -/
theorem test_written_response :
    parseResponse .mulo32 "-> (-294967296, true)".toList =
      some { r := 0xFFFFFFFFEE6B2800#64, v := true } := by decide

/-! ## Witnesses -/

/-- A response in flight. -/
def pending : Response := { r := 21#64, v := false }

/-- A machine with two stages, the older one holding a response, at which `MULO64 3, 4` is presented. -/
def busy : State := presenting [none, some pending] (.mulo64 3#64 4#64)

theorem witness_DecodeOfEncode : Instr.wellFormed (.mulo32 0x123456780000000C#64 0#64) = true := by decide
theorem witness_EncodeOfDecode :
    decode 0x200000000000000030000000000000004#130 = .ok (.mulo64 3#64 4#64) := by rfl
theorem witness_StepRunsPresentedInstruction :
    ((presenting [] (.wmul64 3#64 7#64)).pipe = [] ∧ (presenting [] (.wmul64 3#64 7#64)).ports.reqValid = true ∧
      decode (presenting [] (.wmul64 3#64 7#64)).ports.req.word = .ok (.wmul64 3#64 7#64)) ∧
    (busy.ports.rst = false ∧ busy.ports.reqValid = true ∧ busy.pipe ≠ [] ∧
      decode busy.ports.req.word = .ok (.mulo64 3#64 4#64)) ∧
    decodeTableWord 136 0x100000000000000030000000000000007 = some (.mulo32 3#64 7#64) :=
  ⟨⟨rfl, rfl, rfl⟩, ⟨rfl, rfl, by decide, rfl⟩, by decide⟩
theorem witness_completion_no_pipeline :
    ∃ t : State, exec (.wmul64 3#64 7#64) (presenting [] (.wmul64 3#64 7#64)) = .next t ∧
      t.responses = [{ r := 21#64, v := false }] := ⟨_, rfl, by decide⟩
theorem witness_completion_pipeline :
    ∃ t : State, exec (.mulo32 3#64 7#64) busy = .next t ∧ busy.pipe = [none] ++ [some pending] ∧
      t.pipe = [some { r := 21#64, v := false }, none] ∧ t.responses = [pending] :=
  ⟨_, rfl, by decide, by decide, by decide⟩
theorem witness_Mulo32Answers :
    (4000000000 : Int) = ((2000000000#64).extractLsb' 0 32).toInt * ((2#64).extractLsb' 0 32).toInt ∧
      ({ r := 0xFFFFFFFFEE6B2800#64, v := true } : Response) =
        { r := (BitVec.ofInt 32 4000000000).signExtend 64,
          v := decide ((4000000000 : Int) < -2147483648 ∨ (2147483647 : Int) < 4000000000) } := by decide
theorem witness_Mulo64Answers :
    (-9223372036854775809 : Int) = (3#64).toInt * (0xD555555555555555#64).toInt ∧
      ({ r := 0x7FFFFFFFFFFFFFFF#64, v := true } : Response) =
        { r := BitVec.ofInt 64 (-9223372036854775809),
          v := decide ((-9223372036854775809 : Int) < -9223372036854775808 ∨
            (9223372036854775807 : Int) < -9223372036854775809) } := by decide
/-- Each clause: no stage, and a last stage that is due, with the reserved code on the wires. -/
theorem witness_IdleCycleRequestsNothing :
    State.reset.ports.reqValid = false ∧ State.reset.pipe = [] ∧
    ({ busy with ports := { rst := false, reqValid := false, req := { op := 0b11#2, a := 0#64, b := 0#64 } } } :
      State).pipe = [none] ++ [some pending] := by decide
theorem witness_ResetEdgeDropsWhatIsInFlight :
    ({ busy with ports := { busy.ports with rst := true } } : State).pipe ≠ [] ∧
    ({ busy with ports := { busy.ports with rst := true } } : State).inFlight = [pending] ∧
    ({ busy with ports := { busy.ports with rst := true } } : State).ports.rst = true := by decide
theorem witness_NoResetInputAtLatencyZero : State.reset.pipe = [] := by decide
theorem witness_CombinationalResponsePorts (i : Instr) :
    (presenting [] i).pipe = [] ∧ (presenting [] i).ports.reqValid = true ∧
      (presenting [] i).ports.req.op = i.op.code := ⟨rfl, rfl, rfl⟩
theorem witness_HostReceivesTheResponsePorts :
    (∃ t : State, step busy = .next t ∧ busy.rspValid = true) ∧
    ∃ t : State, step State.reset = .next t ∧ State.reset.rspValid = false :=
  ⟨⟨_, rfl, by decide⟩, ⟨_, rfl, by decide⟩⟩
/-- The reserved code accepted with no pipeline, and a defined code accepted with one. -/
theorem witness_ReservedRequestIsRefused :
    (({ State.reset with ports := Ports.present { op := 0b11#2, a := 3#64, b := 7#64 } } : State).pipe = [] ∧
      ({ State.reset with ports := Ports.present { op := 0b11#2, a := 3#64, b := 7#64 } } :
        State).ports.reqValid = true) ∧
    busy.ports.rst = false ∧ busy.ports.reqValid = true ∧ busy.ports.req.op ≠ 0b11#2 := by decide
theorem witness_OnlyTheReservedRequestStops :
    step { State.reset with ports := Ports.present { op := 0b11#2, a := 3#64, b := 7#64 } } =
      .refused .reservedOp := by rfl
theorem witness_SafeUseNeverStops : busy.safe = true := by decide
theorem witness_ExpectedResponsesAreConserved :
    busy.noReset = true ∧ busy.expected = [pending, { r := 12#64, v := false }] ∧
      ∃ t : State, step busy = .next t := ⟨by decide, by decide, _, rfl⟩
/-- For the set of the one instruction in flight and the one presented; the set is a proper one, since
the response `(1, 0)` answers neither. -/
theorem witness_EveryResponseAnswersAGivenInstruction :
    (∀ x ∈ busy.responses ++ busy.inFlight,
      ∃ i : Instr, (i = .wmul64 3#64 7#64 ∨ i = .mulo64 3#64 4#64) ∧ x = responseOf i) ∧
    (∀ q ∈ busy.presented, ∀ i : Instr, decodeRequest q = .ok i →
      i = .wmul64 3#64 7#64 ∨ i = .mulo64 3#64 4#64) ∧
    (∃ t : State, step busy = .next t) ∧ busy.inFlight = [pending] ∧ busy.presented.length = 1 ∧
    ¬ ∃ i : Instr, (i = .wmul64 3#64 7#64 ∨ i = .mulo64 3#64 4#64) ∧
      ({ r := 1#64, v := false } : Response) = responseOf i := by
  refine ⟨fun x hx => ⟨.wmul64 3#64 7#64, .inl rfl, ?_⟩, fun q hq i hi => .inr ?_, ⟨_, rfl⟩, by decide,
    by decide, ?_⟩
  · have h : busy.responses ++ busy.inFlight = [responseOf (.wmul64 3#64 7#64)] := by decide
    rw [h, List.mem_singleton] at hx
    exact hx
  · have h : busy.presented = [Instr.request (.mulo64 3#64 4#64)] := by decide
    rw [h, List.mem_singleton] at hq
    rw [hq] at hi
    injection hi with hi
    exact hi.symm
  · rintro ⟨i, rfl | rfl, h⟩ <;> revert h <;> decide
theorem witness_LatencyNeverChanges : busy.latency = 2 ∧ ∃ t : State, step busy = .next t :=
  ⟨rfl, _, rfl⟩
theorem witness_ReceivedResponsesAreKept : ∃ t : State, step busy = .next t ∧ t.responses = [pending] :=
  ⟨_, rfl, by decide⟩
theorem witness_ResponseComesAfterLatencySteps :
    busy.safe = true ∧ busy.noReset = true ∧ busy.ports.reqValid = true ∧
      decodeRequest busy.ports.req = .ok (.mulo64 3#64 4#64) := ⟨by decide, by decide, rfl, rfl⟩
theorem witness_SameRequestSameResponse :
    busy.ports.reqValid = true ∧ (presenting [] (.mulo64 3#64 4#64)).ports.reqValid = true ∧
      busy.ports.rst = false ∧ (presenting [] (.mulo64 3#64 4#64)).pipe = [] ∧
      busy.ports.req = (presenting [] (.mulo64 3#64 4#64)).ports.req ∧
      (∃ t : State, step busy = .next t) ∧ ∃ t : State, step (presenting [] (.mulo64 3#64 4#64)) = .next t :=
  ⟨rfl, rfl, rfl, rfl, rfl, ⟨_, rfl⟩, ⟨_, rfl⟩⟩
theorem witness_InstancesShareNothing :
    (∃ row : List State, stepInstance 1 [State.reset, busy] = .next row) ∧ (0 : Nat) ≠ 1 ∧
      [State.reset, busy][1]? = some busy := ⟨⟨_, rfl⟩, by decide, rfl⟩
theorem witness_InstanceOrderIsUnobservable :
    (0 : Nat) ≠ 1 ∧ ∃ row : List State, runInstances [0, 1] [State.reset, busy] = .next row :=
  ⟨by decide, _, rfl⟩
theorem witness_TopLevelRecombination :
    (0xFFFFFFFE00000001 : Nat) = ((0xFFFFFFFFFFFFFFFF#64).toNat % 2 ^ 32) * ((0xFFFFFFFFFFFFFFFF#64).toNat % 2 ^ 32) ∧
    (2 : Nat) = (((0xFFFFFFFFFFFFFFFF#64).toNat % 2 ^ 32) * ((0xFFFFFFFFFFFFFFFF#64).toNat / 2 ^ 32) +
      ((0xFFFFFFFFFFFFFFFF#64).toNat / 2 ^ 32) * ((0xFFFFFFFFFFFFFFFF#64).toNat % 2 ^ 32)) % 2 ^ 32 := by decide
theorem witness_WideCornerCases :
    (63 : Nat) ≤ 63 ∧ (0xFFFFFFFF#64).toNat * (0x100000001#64).toNat < 2 ^ 64 := by decide
/-- Both flag values of both operations, at the ends of the range. -/
theorem witness_CheckedContractIsExact :
    (mulo32Response 0x10000#64 0xFFFFFFFFFFFF8000#64).v = false ∧ (mulo32Response 0x10000#64 0x8000#64).v = true ∧
    (mulo64Response 0x100000000#64 0xFFFFFFFF80000000#64).v = false ∧
    (mulo64Response 0x100000000#64 0x80000000#64).v = true := by decide
theorem witness_FlagPathNeverWraps :
    ((32 : Nat) = 32 ∨ (32 : Nat) = 64) ∧ (0x80000001#32) ≠ Config.minPattern 32 ∧
      flagStep 0x80000001#32 2#32 = .differentSigns ∧ flagStep 0x7FFFFFFF#32 0x7FFFFFFF#32 = .sameSign := by decide
/-- Each case: both minimum, the second minimum, a magnitude 1, magnitudes 2 of both sign patterns. -/
theorem witness_EachStepAnswersItsCase :
    ((64 : Nat) = 32 ∨ (64 : Nat) = 64) ∧ 0x8000000000000000#64 = Config.minPattern 64 ∧
    (1#64 ≠ Config.minPattern 64 ∧ (1#64).toInt.natAbs < 2) ∧
    (2 ≤ (2#64).toInt.natAbs ∧ 2 ≤ (0xFFFFFFFFFFFFFFFE#64).toInt.natAbs ∧
      ((2#64).toInt < 0 ↔ (2#64).toInt < 0) ∧ ¬ ((2#64).toInt < 0 ↔ (0xFFFFFFFFFFFFFFFE#64).toInt < 0)) := by decide
theorem witness_Mulo32IgnoresUpperHalves :
    (0xDEADBEEF00000003#64).extractLsb' 0 32 = (3#64).extractLsb' 0 32 ∧
      (0x0BADF00D00000004#64).extractLsb' 0 32 = (4#64).extractLsb' 0 32 := by decide
theorem witness_CheckedCornerCases :
    (0x7FFFFFFF#32) ≠ Config.minPattern 32 ∧ ((-1 : Int) = 0 ∨ (-1 : Int) = 1 ∨ (-1 : Int) = -1) ∧
      flagStep (Config.minPattern 32) 0x7FFFFFFF#32 = .aIsMin ∧
      flagStep 0x7FFFFFFF#32 (Config.minPattern 32) = .bIsMin := by decide
theorem witness_NarrowOverflowSeenInSixtyFourBits :
    0xFFFFFFFF80000000#64 = ((0x80000000#64).extractLsb' 0 32).signExtend 64 ∧
      0xFFFFFFFFFFFFFFFF#64 = ((0xFFFFFFFF#64).extractLsb' 0 32).signExtend 64 := by decide
theorem witness_OverflowOperandsAreNotSmall :
    ((32 : Nat) = 32 ∨ (32 : Nat) = 64) ∧ overflows 0xFFFFFFFF#32 0x80000000#32 = true ∧
      (0xFFFFFFFF#32).toInt = -1 ∧ overflows 0x80000000#32 0xFFFFFFFF#32 = true := by decide
theorem witness_AssembledLinesAreCanonical :
    assembleLine "MULO32 0x80000000, 1".toList = some (.mulo32 0xFFFFFFFF80000000#64 1#64) := by decide
/-- The ends of each operand type. -/
theorem witness_IntegerLiteralsKeepTheirValue :
    assembleOperand .wmul64 (.int 18446744073709551615) = some 0xFFFFFFFFFFFFFFFF#64 ∧
      assembleOperand .wmul64 (.int 18446744073709551616) = none ∧
      assembleOperand .mulo64 (.int (-9223372036854775808)) = some 0x8000000000000000#64 ∧
      assembleOperand .mulo32 (.int (-2147483648)) = some 0xFFFFFFFF80000000#64 ∧
      assembleOperand .mulo32 (.int (-2147483649)) = none ∧
      assembleOperand .wmul64 (.pattern 0xFFFFFFFFFFFFFFFF) = some 0xFFFFFFFFFFFFFFFF#64 ∧
      assembleOperand .mulo64 (.pattern 0x8000000000000000) = some 0x8000000000000000#64 ∧
      assembleOperand .mulo64 (.pattern 0x10000000000000000) = none ∧
      assembleOperand .mulo32 (.pattern 0xFFFFFFFF) = some 0xFFFFFFFFFFFFFFFF#64 ∧
      assembleOperand .mulo32 (.pattern 0x100000000) = none := by decide
theorem witness_BothWrittenFormsAgree :
    opOfMnemonic "MULO64".toList = some .mulo64 ∧ opOfCall "mul_overflow_i64".toList = some .mulo64 := by decide

end Sys2Proof.Tests
end

section
/-! SUPPORT. The result of `WMUL64` as the machine's own product, and words built by concatenation,
as numbers. -/

namespace Sys2Proof.Machine

/-- The contract of `WMUL64` is the multiplication of 64-bit words (rule R41). -/
theorem wmul64Response_r (a b : Word) : (wmul64Response a b).r = a * b := by
  simp only [wmul64Response, unsignedProduct, BitVec.ofNat_mul, BitVec.ofNat_toNat, BitVec.setWidth_eq]

/-- The result of `MULO64` is the multiplication of 64-bit words (rule R62). -/
theorem mulo64Response_r (a b : Word) : (mulo64Response a b).r = a * b :=
  wrappingProduct_eq_mul a b

/-- Exchanged operands give the same response, flag included (rule R55). -/
theorem wmul64Response_comm (a b : Word) : wmul64Response a b = wmul64Response b a := by
  simp only [wmul64Response, unsignedProduct, Nat.mul_comm]

/-- The word `2^k` is the library's `twoPow`, which reads multiplication by it as a shift. -/
theorem ofNat_two_pow_eq_twoPow (W k : Nat) : BitVec.ofNat W (2 ^ k) = BitVec.twoPow W k :=
  BitVec.eq_of_toNat_eq (by rw [BitVec.toNat_ofNat, BitVec.toNat_twoPow])

/-- A partial product is at most `0xFFFF * 0xFFFF`, the bound that rule R46 uses. -/
theorem quarter_mul_le (x y : QuarterWord) : x.toNat * y.toNat ≤ 0xFFFE0001 :=
  Nat.mul_le_mul (Nat.le_sub_one_of_lt x.isLt) (Nat.le_sub_one_of_lt y.isLt)

/-- The order of the operands of a multiplier does not matter. -/
theorem mul16_comm (x y : QuarterWord) : mul16 x y = mul16 y x :=
  BitVec.mul_comm _ _

/-- Zero extension to a half-word keeps the value. -/
theorem zeroExtend_quarter_toNat (x : QuarterWord) : (x.zeroExtend 32).toNat = x.toNat :=
  BitVec.toNat_setWidth_of_le (by decide)

/-- Concatenation places the left word above the right one. -/
theorem append_toNat {m n : Nat} (x : BitVec m) (y : BitVec n) :
    (x ++ y).toNat = x.toNat * 2 ^ n + y.toNat := by
  rw [BitVec.toNat_append, ← Nat.shiftLeft_add_eq_or_of_lt y.isLt, Nat.shiftLeft_eq]

/-- The value of an assembled word `{u, m, l}` (rules R46, R51). -/
theorem assembled_toNat (u : HalfWord) (m l : QuarterWord) :
    (u ++ m ++ l : Word).toNat = u.toNat * 2 ^ 32 + m.toNat * 65536 + l.toNat := by
  rw [append_toNat, append_toNat]
  omega

/-- Quarter-words 1 and 0 make up the low half of an operand (rule R43). -/
theorem quarters_lowHalf (x : Word) :
    (quarter 1 x).toNat * 65536 + (quarter 0 x).toNat = x.toNat % 2 ^ 32 := by
  rw [quarter_toNat, quarter_toNat]
  omega

/-- Quarter-words 3 and 2 make up the high half of an operand (rule R43). -/
theorem quarters_highHalf (x : Word) :
    (quarter 3 x).toNat * 65536 + (quarter 2 x).toNat = x.toNat / 2 ^ 32 := by
  have hx := x.isLt
  rw [quarter_toNat, quarter_toNat]
  omega

/-- Two two-digit numbers in base `B`: the four products of digits, each at its weight. -/
theorem two_digit_mul (B l0 l1 h0 h1 : Nat) :
    (l1 * B + l0) * (h1 * B + h0) = l0 * h0 + (l1 * h0 + l0 * h1) * B + l1 * h1 * (B * B) := by
  ring

/-- The recombination of rule R44: modulo `2^64` a product is the product of the low halves plus the
cross terms, which count only modulo `2^32`, at weight `2^32`. The product of the high halves has
weight `2^64` and is lost. -/
theorem mul_mod_eq_recombination (m n : Nat) :
    m * n % 2 ^ 64 =
      ((m % 2 ^ 32) * (n % 2 ^ 32) +
        ((m % 2 ^ 32) * (n / 2 ^ 32) + (m / 2 ^ 32) * (n % 2 ^ 32)) % 2 ^ 32 * 2 ^ 32) % 2 ^ 64 := by
  have hm : m / 2 ^ 32 * 2 ^ 32 + m % 2 ^ 32 = m := Nat.div_add_mod' m _
  have hn : n / 2 ^ 32 * 2 ^ 32 + n % 2 ^ 32 = n := Nat.div_add_mod' n _
  have hmul := two_digit_mul (2 ^ 32) (m % 2 ^ 32) (m / 2 ^ 32) (n % 2 ^ 32) (n / 2 ^ 32)
  rw [hm, hn] at hmul
  omega

end Sys2Proof.Machine
end

section
/-! SUPPORT. The signals of the reference datapath of `WMUL64` as numbers, in the order of rules R46
to R51: the lower product without a lost carry, the cross terms modulo `2^32`, the result. -/

namespace Sys2Proof.Machine

section Lower
variable (a0 a1 b0 b1 : QuarterWord)

/-- Bits 15:0 of the lower product come from `p00` alone (rule R46). -/
theorem lowerSignals_lo0_toNat :
    (lowerSignals a0 a1 b0 b1).lo0.toNat = a0.toNat * b0.toNat % 65536 := by
  simp only [lowerSignals, low16_toNat, mul16_toNat]

/-- `t1` is an exact sum: no carry is lost (rule R46). -/
theorem lowerSignals_t1_toNat :
    (lowerSignals a0 a1 b0 b1).t1.toNat = a0.toNat * b0.toNat / 65536 + a1.toNat * b0.toNat := by
  have h00 := quarter_mul_le a0 b0
  have h10 := quarter_mul_le a1 b0
  simp only [lowerSignals, BitVec.toNat_add, zeroExtend_quarter_toNat, high16_toNat, mul16_toNat]
  omega

/-- The largest value of `t1` (rule R46). -/
theorem lowerSignals_t1_le : (lowerSignals a0 a1 b0 b1).t1.toNat ≤ 0xFFFEFFFF := by
  have h00 := quarter_mul_le a0 b0
  have h10 := quarter_mul_le a1 b0
  rw [lowerSignals_t1_toNat]
  omega

/-- `t2` is an exact sum: no carry is lost (rule R46). -/
theorem lowerSignals_t2_toNat :
    (lowerSignals a0 a1 b0 b1).t2.toNat =
      (lowerSignals a0 a1 b0 b1).t1.toNat % 65536 + a0.toNat * b1.toNat := by
  have h01 := quarter_mul_le a0 b1
  have ht2 : (lowerSignals a0 a1 b0 b1).t2 =
      (low16 (lowerSignals a0 a1 b0 b1).t1).zeroExtend 32 + mul16 a0 b1 := rfl
  simp only [ht2, BitVec.toNat_add, zeroExtend_quarter_toNat, low16_toNat, mul16_toNat]
  omega

/-- The largest value of `t2` (rule R46). -/
theorem lowerSignals_t2_le : (lowerSignals a0 a1 b0 b1).t2.toNat ≤ 0xFFFF0000 := by
  have h01 := quarter_mul_le a0 b1
  rw [lowerSignals_t2_toNat]
  omega

/-- Bits 31:16 of the lower product are the low half of `t2` (rule R46). -/
theorem lowerSignals_lo1_toNat :
    (lowerSignals a0 a1 b0 b1).lo1.toNat = (lowerSignals a0 a1 b0 b1).t2.toNat % 65536 :=
  low16_toNat _

/-- `h` is an exact sum of the two carries and `p11`: no carry is lost (rule R46). -/
theorem lowerSignals_h_toNat :
    (lowerSignals a0 a1 b0 b1).h.toNat =
      (lowerSignals a0 a1 b0 b1).t1.toNat / 65536 + (lowerSignals a0 a1 b0 b1).t2.toNat / 65536 +
        a1.toNat * b1.toNat := by
  have ht1 := lowerSignals_t1_le a0 a1 b0 b1
  have ht2 := lowerSignals_t2_le a0 a1 b0 b1
  have h11 := quarter_mul_le a1 b1
  have hh : (lowerSignals a0 a1 b0 b1).h =
      (high16 (lowerSignals a0 a1 b0 b1).t1).zeroExtend 32 +
        (high16 (lowerSignals a0 a1 b0 b1).t2).zeroExtend 32 + mul16 a1 b1 := rfl
  simp only [hh, BitVec.toNat_add, zeroExtend_quarter_toNat, high16_toNat, mul16_toNat]
  omega

/-- The largest value of `h` (rule R46). -/
theorem lowerSignals_h_le : (lowerSignals a0 a1 b0 b1).h.toNat ≤ 0xFFFFFFFE := by
  have ht1 := lowerSignals_t1_le a0 a1 b0 b1
  have ht2 := lowerSignals_t2_le a0 a1 b0 b1
  have h11 := quarter_mul_le a1 b1
  rw [lowerSignals_h_toNat]
  omega

/-- The carry chain gives the exact product of the two low halves (rule R46). -/
theorem lowerSignals_product_toNat :
    (lowerSignals a0 a1 b0 b1).product.toNat =
      (a1.toNat * 65536 + a0.toNat) * (b1.toNat * 65536 + b0.toNat) := by
  have hlo0 := lowerSignals_lo0_toNat a0 a1 b0 b1
  have ht1 := lowerSignals_t1_toNat a0 a1 b0 b1
  have ht2 := lowerSignals_t2_toNat a0 a1 b0 b1
  have hlo1 := lowerSignals_lo1_toNat a0 a1 b0 b1
  have hh := lowerSignals_h_toNat a0 a1 b0 b1
  rw [LowerSignals.product, assembled_toNat, two_digit_mul]
  omega

end Lower

section Cross
variable (l0 l1 h0 h1 : QuarterWord)

/-- `m` is the 16-bit sum of the low halves of the two products of weight `2^48` (rules R47, R48). -/
theorem crossSignals_m_toNat :
    (crossSignals l0 l1 h0 h1).m.toNat =
      ((crossSignals l0 l1 h0 h1).q1.toNat % 65536 + (crossSignals l0 l1 h0 h1).q2.toNat % 65536) %
        65536 := by
  simp only [crossSignals, BitVec.toNat_add, low16_toNat]

/-- A cross term is the 32-bit sum of `q0` and `m` at weight `2^16` (rules R47, R48). -/
theorem crossSignals_x_toNat :
    (crossSignals l0 l1 h0 h1).x.toNat =
      ((crossSignals l0 l1 h0 h1).q0.toNat + (crossSignals l0 l1 h0 h1).m.toNat * 65536) % 2 ^ 32 := by
  simp only [crossSignals, BitVec.toNat_add, append_toNat, BitVec.toNat_zero, Nat.add_zero,
    Nat.reducePow]

/-- A cross term is the product of the two halves modulo `2^32`: the carries it drops and the fourth
product of quarter-words have weight `2^32` (rules R47, R48). -/
theorem crossSignals_x_toNat_eq_mul_mod :
    (crossSignals l0 l1 h0 h1).x.toNat =
      (l1.toNat * 65536 + l0.toNat) * (h1.toNat * 65536 + h0.toNat) % 2 ^ 32 := by
  have hq0 : (crossSignals l0 l1 h0 h1).q0.toNat = l0.toNat * h0.toNat := mul16_toNat l0 h0
  have hq1 : (crossSignals l0 l1 h0 h1).q1.toNat = l1.toNat * h0.toNat := mul16_toNat l1 h0
  have hq2 : (crossSignals l0 l1 h0 h1).q2.toNat = l0.toNat * h1.toNat := mul16_toNat l0 h1
  rw [crossSignals_x_toNat, crossSignals_m_toNat, hq0, hq1, hq2, two_digit_mul]
  omega

end Cross

section Wide
variable (a b : Word)

/-- The lower product of the datapath is the product of the low halves (rule R46). -/
theorem wideSignals_lower_product_toNat :
    (wideSignals a b).lower.product.toNat = (a.toNat % 2 ^ 32) * (b.toNat % 2 ^ 32) := by
  rw [← quarters_lowHalf a, ← quarters_lowHalf b]
  exact lowerSignals_product_toNat _ _ _ _

/-- `X1` is `aL * bH` modulo `2^32` (rule R47). -/
theorem wideSignals_cross1_x_toNat :
    (wideSignals a b).cross1.x.toNat = (a.toNat % 2 ^ 32) * (b.toNat / 2 ^ 32) % 2 ^ 32 := by
  rw [← quarters_lowHalf a, ← quarters_highHalf b]
  exact crossSignals_x_toNat_eq_mul_mod _ _ _ _

/-- `X2` is `aH * bL` modulo `2^32` (rule R48). -/
theorem wideSignals_cross2_x_toNat :
    (wideSignals a b).cross2.x.toNat = (a.toNat / 2 ^ 32) * (b.toNat % 2 ^ 32) % 2 ^ 32 := by
  rw [Nat.mul_comm (a.toNat / 2 ^ 32), ← quarters_lowHalf b, ← quarters_highHalf a]
  exact crossSignals_x_toNat_eq_mul_mod _ _ _ _

/-- `X` is the 32-bit sum of the two cross terms (rule R49). -/
theorem wideSignals_x_toNat :
    (wideSignals a b).x.toNat =
      ((wideSignals a b).cross1.x.toNat + (wideSignals a b).cross2.x.toNat) % 2 ^ 32 :=
  BitVec.toNat_add _ _

/-- `X` is the sum of the two products of halves modulo `2^32` (rule R49). -/
theorem wideSignals_x_toNat_eq_sum_mod :
    (wideSignals a b).x.toNat =
      ((a.toNat % 2 ^ 32) * (b.toNat / 2 ^ 32) + (a.toNat / 2 ^ 32) * (b.toNat % 2 ^ 32)) % 2 ^ 32 := by
  rw [wideSignals_x_toNat, wideSignals_cross1_x_toNat, wideSignals_cross2_x_toNat, ← Nat.add_mod]

/-- The assembled result is the lower product plus `X` at weight `2^32`, modulo `2^64`: only the carry
out of `U` is dropped, and `X` does not reach the lower word (rules R50, R51). -/
theorem wmul64Reference_toNat :
    (wmul64Reference a b).toNat =
      ((wideSignals a b).lower.product.toNat + (wideSignals a b).x.toNat * 2 ^ 32) % 2 ^ 64 := by
  have hu : (wideSignals a b).u.toNat =
      ((wideSignals a b).lower.h.toNat + (wideSignals a b).x.toNat) % 2 ^ 32 := BitVec.toNat_add _ _
  have hlo1 := (wideSignals a b).lower.lo1.isLt
  have hlo0 := (wideSignals a b).lower.lo0.isLt
  rw [wmul64Reference, LowerSignals.product, assembled_toNat, assembled_toNat, hu]
  omega

end Wide

end Sys2Proof.Machine
end

section
/-! SUPPORT. The statements about `WMUL64` (rules R42, R46 to R49, R53, R55), settled. -/

namespace Sys2Proof.Laws

open Sys2Proof.Machine

/-- Settles O31: the datapath and the contract are the same recombination of rule R44. -/
theorem wideDatapathEqualsContract : Obligations.WideDatapathEqualsContract := by
  intro a b
  apply BitVec.eq_of_toNat_eq
  rw [wmul64Reference_toNat, wideSignals_lower_product_toNat, wideSignals_x_toNat_eq_sum_mod,
    ← mul_mod_eq_recombination, BitVec.toNat_ofNat]

/-- Settles O32: every sum is exact because a partial product is at most `0xFFFE0001`; the maxima are
those of the all-ones operands. -/
theorem lowerProductIsExact : Obligations.LowerProductIsExact := by
  refine ⟨fun a0 a1 b0 b1 => ?_, by decide, by decide, by decide, by decide⟩
  exact ⟨lowerSignals_product_toNat a0 a1 b0 b1, lowerSignals_t1_toNat a0 a1 b0 b1,
    lowerSignals_t2_toNat a0 a1 b0 b1, lowerSignals_h_toNat a0 a1 b0 b1,
    lowerSignals_lo0_toNat a0 a1 b0 b1, lowerSignals_lo1_toNat a0 a1 b0 b1,
    lowerSignals_t1_le a0 a1 b0 b1, lowerSignals_t2_le a0 a1 b0 b1, lowerSignals_h_le a0 a1 b0 b1⟩

/-- Settles O33: the second cross term is the first with the operands exchanged, so its partial
products are those named up to the order of the multiplier's operands. -/
theorem crossTermsModuloTwoToThirtyTwo : Obligations.CrossTermsModuloTwoToThirtyTwo := by
  intro a b
  exact ⟨rfl, rfl, rfl, crossSignals_m_toNat _ _ _ _, crossSignals_x_toNat _ _ _ _,
    wideSignals_cross1_x_toNat a b,
    mul16_comm _ _, mul16_comm _ _, mul16_comm _ _, crossSignals_m_toNat _ _ _ _,
    crossSignals_x_toNat _ _ _ _,
    wideSignals_cross2_x_toNat a b, wideSignals_x_toNat a b, wideSignals_x_toNat_eq_sum_mod a b⟩

/-- Settles O36: the symbolic rows are laws of multiplication on words; the fixed pairs and the worked
example are computed. -/
theorem wideCornerCases : Obligations.WideCornerCases := by
  refine ⟨fun b => ⟨?zeroLeft, ?zeroRight, ?oneLeft, ?oneRight, ?square, ?allOnes,
      fun k _ => ?powerOfTwo⟩,
    fun a b => ⟨wmul64Response_comm a b, fun hlt => ?noWrap⟩,
    by decide, by decide, by decide, by decide, by decide, by decide⟩
  case zeroLeft => rw [wmul64Response_r, BitVec.zero_mul]
  case zeroRight => rw [wmul64Response_r, BitVec.mul_zero]
  case oneLeft => rw [wmul64Response_r, BitVec.one_mul]
  case oneRight => rw [wmul64Response_r, BitVec.mul_one]
  case square => rw [wmul64Response_r, BitVec.toNat_mul, Nat.pow_two]
  case allOnes =>
    have hones : 0xFFFFFFFFFFFFFFFF#64 = -1#64 := by decide
    rw [wmul64Response_r, hones, BitVec.neg_mul, BitVec.one_mul]
  case powerOfTwo =>
    rw [wmul64Response_r, ofNat_two_pow_eq_twoPow, BitVec.mul_comm, BitVec.mul_twoPow_eq_shiftLeft]
  case noWrap => rw [wmul64Response_r, BitVec.toNat_mul, Nat.mod_eq_of_lt hlt]

/-- Settles O35: both results are the product of the two words, on which the signed reading agrees. -/
theorem wideResultIgnoresSignedness : Obligations.WideResultIgnoresSignedness := by
  intro a b
  constructor
  · rw [wmul64Response_r, BitVec.ofInt_mul, BitVec.ofInt_toInt, BitVec.ofInt_toInt]
  · rw [wmul64Response_r, mulo64Response_r]

end Sys2Proof.Laws
end

section
/-! SUPPORT. The contract of the checked multiplies at any width: the wrapping product as an integer,
the flag as a range test, and the flag where an operand is the minimum or small (rules R61 to R66). -/

namespace Sys2Proof.Machine

section Width
variable {W : Nat} (a b : BitVec W)

/-- `MINW` is the library's least signed word. -/
theorem minPattern_eq_intMin (W : Nat) : Config.minPattern W = BitVec.intMin W :=
  ofNat_two_pow_eq_twoPow W (W - 1)

/-- `MINW` read as a signed number (rule R5). -/
theorem minPattern_toInt (hW : 0 < W) : (Config.minPattern W).toInt = Config.minInt W := by
  rw [minPattern_eq_intMin, BitVec.toInt_intMin_of_pos hW, Config.minInt]

/-- Outside `MINW` the signed value is at least `MIN(W) + 1`, so its magnitude is at most `MAX(W)`
(rule R65). -/
theorem natAbs_toInt_lt_of_ne_minPattern (hW : 0 < W) {x : BitVec W} (hx : x ≠ Config.minPattern W) :
    x.toInt.natAbs < 2 ^ (W - 1) := by
  have hlo := BitVec.le_toInt x
  have hhi := BitVec.toInt_lt (x := x)
  have hne : x.toInt ≠ -2 ^ (W - 1) := fun h =>
    hx (BitVec.eq_of_toInt_eq (h.trans (minPattern_toInt hW).symm))
  zify
  exact abs_lt.mpr ⟨lt_of_le_of_ne hlo hne.symm, hhi⟩

/-- `MINW` is not small. -/
theorem ne_minPattern_of_natAbs_lt_two (hW : 2 ≤ W) {x : BitVec W} (hx : x.toInt.natAbs < 2) :
    x ≠ Config.minPattern W := by
  rintro rfl
  have htwo : 2 ^ 1 ≤ 2 ^ (W - 1) := Nat.pow_le_pow_right (by decide) (by omega)
  rw [minPattern_toInt (by omega), Config.minInt, Int.natAbs_neg, Int.natAbs_pow] at hx
  exact absurd hx (not_lt.mpr htwo)

/-- A small constant as a word keeps its value. -/
theorem ofInt_toInt_of_natAbs_lt_two (hW : 2 ≤ W) {c : Int} (hc : c.natAbs < 2) :
    (BitVec.ofInt W c).toInt = c := by
  have htwo : (2 : Int) ^ 1 ≤ 2 ^ (W - 1) := pow_le_pow_right₀ (by decide) (by omega)
  exact BitVec.toInt_ofInt_eq_self (by omega) (by omega) (by omega)

/-- The words `0` and `1` are those of signed value 0 and 1: the test of steps 1 and 2
(rules R63, R64). -/
theorem bne_zero_and_bne_one_iff (hW : 2 ≤ W) (x : BitVec W) :
    (x != 0#W && x != 1#W) = true ↔ x.toInt ≠ 0 ∧ x.toInt ≠ 1 := by
  have hzero : (0#W).toInt = 0 := BitVec.toInt_zero
  have hone : (1#W).toInt = 1 := ofInt_toInt_of_natAbs_lt_two hW (c := 1) (by decide)
  rw [Bool.and_eq_true, bne_iff_ne, bne_iff_ne, ← BitVec.toInt_ne, ← BitVec.toInt_ne, hzero, hone]

/-- The flag is clear exactly when the exact product is in range (rule R61). -/
theorem overflows_eq_false_iff :
    overflows a b = false ↔
      Config.minInt W ≤ a.toInt * b.toInt ∧ a.toInt * b.toInt ≤ Config.maxInt W := by
  rw [← Bool.not_eq_true, overflows_eq_true_iff, not_or, not_lt, not_lt]

/-- A magnitude of the exact product up to `MAX(W)` is no overflow. -/
theorem overflows_eq_false_of_natAbs_lt (h : (a.toInt * b.toInt).natAbs < 2 ^ (W - 1)) :
    overflows a b = false := by
  zify at h
  obtain ⟨hlo, hhi⟩ := abs_lt.mp h
  exact (overflows_eq_false_iff a b).mpr ⟨hlo.le, Int.le_sub_one_of_lt hhi⟩

/-- Exchanged operands give the same product (rule R74). -/
theorem wrappingProduct_comm : wrappingProduct a b = wrappingProduct b a := by
  rw [wrappingProduct, wrappingProduct, signedProduct, signedProduct, Int.mul_comm]

/-- Exchanged operands give the same flag (rule R74). -/
theorem overflows_comm : overflows a b = overflows b a := by
  rw [overflows, overflows, signedProduct, signedProduct, Int.mul_comm]

/-- Without overflow the result is the exact product (rule R61). -/
theorem wrappingProduct_toInt_of_not_overflows (hW : 0 < W) (h : overflows a b = false) :
    (wrappingProduct a b).toInt = a.toInt * b.toInt := by
  obtain ⟨hlo, hhi⟩ := (overflows_eq_false_iff a b).mp h
  exact BitVec.toInt_ofInt_eq_self hW hlo (Int.lt_of_le_sub_one hhi)

/-- With overflow the result misses the exact product by a nonzero multiple of `2^W`: with multiple 0
the exact product would be the value of a word, hence in range (rule R61). -/
theorem wrappingProduct_toInt_of_overflows (h : overflows a b = true) :
    ∃ k : Int, k ≠ 0 ∧ (wrappingProduct a b).toInt = a.toInt * b.toInt - k * 2 ^ W := by
  have hwrap : (wrappingProduct a b).toInt =
      a.toInt * b.toInt - (a.toInt * b.toInt).bdiv (2 ^ W) * 2 ^ W := by
    rw [wrappingProduct, signedProduct, BitVec.toInt_ofInt, Int.bmod_eq_self_sub_bdiv_mul]
    norm_cast
  refine ⟨_, fun hk => ?_, hwrap⟩
  rw [hk, Int.zero_mul, Int.sub_zero] at hwrap
  have hclear : overflows a b = false := by
    rw [overflows_eq_false_iff, ← hwrap]
    exact ⟨BitVec.le_toInt _, Int.le_sub_one_of_lt BitVec.toInt_lt⟩
  exact Bool.false_ne_true (hclear.symm.trans h)

/-- Multiplying the minimum overflows except by 0 and 1: `MIN(W) * b` is below the range for `b` above
1 and above it for `b` below 0 (rule R63). -/
theorem overflows_minPattern_left (hW : 2 ≤ W) :
    overflows (Config.minPattern W) b = (b != 0#W && b != 1#W) := by
  rw [Bool.eq_iff_iff, overflows_eq_true_iff, bne_zero_and_bne_one_iff hW,
    minPattern_toInt (by omega), Config.minInt, Config.maxInt]
  have hpos : (0 : Int) < 2 ^ (W - 1) := by positivity
  have hbelow : -2 ^ (W - 1) * b.toInt < -2 ^ (W - 1) ↔ 1 < b.toInt := by
    rw [Int.neg_mul, neg_lt_neg_iff, lt_mul_iff_one_lt_right hpos]
  have habove : 2 ^ (W - 1) - 1 < -2 ^ (W - 1) * b.toInt ↔ 1 ≤ -b.toInt := by
    rw [Int.sub_one_lt_iff, neg_mul_comm, le_mul_iff_one_le_right hpos]
  rw [hbelow, habove]
  omega

/-- The symmetric case (rule R64). -/
theorem overflows_minPattern_right (hW : 2 ≤ W) :
    overflows a (Config.minPattern W) = (a != 0#W && a != 1#W) := by
  rw [overflows_comm, overflows_minPattern_left a hW]

/-- With a magnitude below 2 the product is no larger than the other operand, so it is in range
(rule R66). -/
theorem overflows_eq_false_of_small_left (hW : 0 < W) (hb : b ≠ Config.minPattern W)
    (ha : a.toInt.natAbs < 2) : overflows a b = false := by
  apply overflows_eq_false_of_natAbs_lt
  calc (a.toInt * b.toInt).natAbs
      = a.toInt.natAbs * b.toInt.natAbs := Int.natAbs_mul _ _
    _ ≤ 1 * b.toInt.natAbs := Nat.mul_le_mul_right _ (Nat.le_of_lt_succ ha)
    _ < 2 ^ (W - 1) := by rw [Nat.one_mul]; exact natAbs_toInt_lt_of_ne_minPattern hW hb

/-- Rule R66 for either operand. -/
theorem overflows_eq_false_of_small (hW : 0 < W) (ha : a ≠ Config.minPattern W)
    (hb : b ≠ Config.minPattern W) (hsmall : a.toInt.natAbs < 2 ∨ b.toInt.natAbs < 2) :
    overflows a b = false := by
  obtain h | h := hsmall
  · exact overflows_eq_false_of_small_left a b hW hb h
  · rw [overflows_comm]
    exact overflows_eq_false_of_small_left b a hW ha h

end Width

/-- Integers of one sign: the product is the product of the magnitudes. -/
theorem mul_eq_natAbs_mul_natAbs {x y : Int} (h : x < 0 ↔ y < 0) :
    x * y = (x.natAbs * y.natAbs : Nat) := by
  have hnonneg : 0 ≤ x * y := by
    obtain hx | hx := lt_or_ge x 0
    · exact mul_nonneg_of_nonpos_of_nonpos hx.le (h.mp hx).le
    · exact mul_nonneg hx (not_lt.mp (mt h.mpr hx.not_gt))
  rw [← Int.natAbs_mul, Int.natAbs_of_nonneg hnonneg]

/-- Integers of different signs: the product is the negated product of the magnitudes. -/
theorem mul_eq_neg_natAbs_mul_natAbs {x y : Int} (h : ¬ (x < 0 ↔ y < 0)) :
    x * y = -(x.natAbs * y.natAbs : Nat) := by
  have hnonpos : x * y ≤ 0 := by
    obtain ⟨hx, hy⟩ | ⟨hx, hy⟩ : (x < 0 ∧ 0 ≤ y) ∨ (0 ≤ x ∧ y < 0) := by omega
    · exact mul_nonpos_of_nonpos_of_nonneg hx.le hy
    · exact mul_nonpos_of_nonneg_of_nonpos hx hy.le
  rw [← Int.natAbs_mul, Int.ofNat_natAbs_of_nonpos hnonpos, Int.neg_neg]

section Division
variable {W : Nat} {a b : BitVec W}

/-- Step 5, same sign: the range test as a division (rule R67). -/
theorem overflows_of_sameSign (hb : 2 ≤ b.toInt.natAbs) (hsign : a.toInt < 0 ↔ b.toInt < 0) :
    overflows a b = decide ((2 ^ (W - 1) - 1) / b.toInt.natAbs < a.toInt.natAbs) := by
  have hpos : 0 < 2 ^ (W - 1) := Nat.two_pow_pos _
  have hcast : ((2 ^ (W - 1) : Nat) : Int) = 2 ^ (W - 1) := Nat.cast_pow 2 _
  rw [Bool.eq_iff_iff, decide_eq_true_iff, overflows_eq_true_iff, mul_eq_natAbs_mul_natAbs hsign,
    Nat.div_lt_iff_lt_mul (by omega), Config.minInt, Config.maxInt]
  omega

/-- Step 5, different signs: the bound is one larger, so a product of exactly `MIN(W)` is no overflow
(rule R68). -/
theorem overflows_of_differentSigns (hb : 2 ≤ b.toInt.natAbs)
    (hsign : ¬ (a.toInt < 0 ↔ b.toInt < 0)) :
    overflows a b = decide (2 ^ (W - 1) / b.toInt.natAbs < a.toInt.natAbs) := by
  have hpos : 0 < 2 ^ (W - 1) := Nat.two_pow_pos _
  have hcast : ((2 ^ (W - 1) : Nat) : Int) = 2 ^ (W - 1) := Nat.cast_pow 2 _
  rw [Bool.eq_iff_iff, decide_eq_true_iff, overflows_eq_true_iff, mul_eq_neg_natAbs_mul_natAbs hsign,
    Nat.div_lt_iff_lt_mul (by omega), Config.minInt, Config.maxInt]
  omega

end Division

end Sys2Proof.Machine
end

section
/-! SUPPORT. The signals of the flag algorithm as numbers, and the one case in which each of its steps
decides (rules R63 to R70). -/

namespace Sys2Proof.Machine

section Width
variable {W : Nat}

/-- The arithmetic shift by `W-1` copies the sign bit into every place (rule R65). -/
theorem signMask_eq (x : BitVec W) :
    signMask x = if x.toInt < 0 then BitVec.allOnes W else 0#W := by
  have hshift : signMask x = BitVec.ofInt W (x.toInt / 2 ^ (W - 1)) := by
    rw [signMask, BitVec.sshiftRight, Int.shiftRight_eq_div_pow, Nat.cast_pow, Nat.cast_ofNat]
  rw [hshift]
  split
  case isTrue hneg =>
    rw [Int.ediv_eq_neg_one_of_neg_of_le hneg (neg_le.mp (BitVec.le_toInt x)), BitVec.ofInt_neg,
      BitVec.ofInt_ofNat, BitVec.neg_one_eq_allOnes]
  case isFalse hnonneg =>
    rw [Int.ediv_eq_zero_of_lt (not_lt.mp hnonneg) BitVec.toInt_lt, BitVec.ofInt_ofNat]

/-- Equal sign masks are equal signs (rule R67). -/
theorem signMask_eq_iff (hW : 0 < W) (a b : BitVec W) :
    signMask a = signMask b ↔ (a.toInt < 0 ↔ b.toInt < 0) := by
  have hne : BitVec.allOnes W ≠ 0#W := mt BitVec.allOnes_eq_zero_iff.mp hW.ne'
  rw [signMask_eq, signMask_eq]
  by_cases ha : a.toInt < 0 <;> by_cases hb : b.toInt < 0 <;> simp [ha, hb, hne, hne.symm]

/-- The two's-complement identity `(x ^ sign) - sign` is the library's absolute value (rule R65). -/
theorem magnitude_eq_abs (x : BitVec W) : magnitude x = x.abs := by
  rw [magnitude, signMask_eq, BitVec.abs_eq, BitVec.msb_eq_toInt]
  by_cases hx : x.toInt < 0
  · simp only [hx, if_true, decide_true]
    rw [BitVec.xor_allOnes, BitVec.neg_eq_not_add, ← BitVec.neg_one_eq_allOnes, BitVec.sub_neg]
  · simp [hx]

/-- The magnitude is exact; that of `MINW` too, read unsigned (rules R65, R68). -/
theorem magnitude_toNat (x : BitVec W) : (magnitude x).toNat = x.toInt.natAbs := by
  rw [magnitude_eq_abs, BitVec.toNat_abs, BitVec.toInt_eq_msb_cond]
  have hx := x.isLt
  split <;> omega

/-- The test of step 4 on a magnitude (rule R66). -/
theorem magnitude_ult_two (hW : 2 ≤ W) (x : BitVec W) :
    BitVec.ult (magnitude x) (BitVec.ofNat W 2) = true ↔ x.toInt.natAbs < 2 := by
  have htwo : 2 ^ 2 ≤ 2 ^ W := Nat.pow_le_pow_right (by decide) hW
  rw [BitVec.ult_iff_toNat_lt, magnitude_toNat, BitVec.toNat_ofNat,
    Nat.mod_eq_of_lt (by omega)]

/-- The quotients of step 5 truncate (rules R67, R68). -/
theorem flagBound_toNat (d b : BitVec W) : (flagBound d b).toNat = d.toNat / b.toInt.natAbs := by
  rw [flagBound, BitVec.toNat_udiv, magnitude_toNat]

/-- The case of the operands in which a step decides, by their signed values (rule R70). -/
def FlagStep.Decides (a b : BitVec W) : FlagStep → Prop
  | .aIsMin => a = Config.minPattern W
  | .bIsMin => a ≠ Config.minPattern W ∧ b = Config.minPattern W
  | .small => a ≠ Config.minPattern W ∧ b ≠ Config.minPattern W ∧
      (a.toInt.natAbs < 2 ∨ b.toInt.natAbs < 2)
  | .sameSign => a ≠ Config.minPattern W ∧ b ≠ Config.minPattern W ∧
      2 ≤ a.toInt.natAbs ∧ 2 ≤ b.toInt.natAbs ∧ (a.toInt < 0 ↔ b.toInt < 0)
  | .differentSigns => a ≠ Config.minPattern W ∧ b ≠ Config.minPattern W ∧
      2 ≤ a.toInt.natAbs ∧ 2 ≤ b.toInt.natAbs ∧ ¬ (a.toInt < 0 ↔ b.toInt < 0)

/-- The tests of the algorithm, on signed values (rule R70). -/
theorem flagStep_eq_ite (hW : 2 ≤ W) (a b : BitVec W) :
    flagStep a b =
      if a = Config.minPattern W then .aIsMin
      else if b = Config.minPattern W then .bIsMin
      else if a.toInt.natAbs < 2 ∨ b.toInt.natAbs < 2 then .small
      else if a.toInt < 0 ↔ b.toInt < 0 then .sameSign
      else .differentSigns := by
  simp only [flagStep, Bool.or_eq_true, magnitude_ult_two hW, signMask_eq_iff (by omega : 0 < W)]

/-- The deciding step is in its case: the cases leave none out. -/
theorem flagStep_decides (hW : 2 ≤ W) (a b : BitVec W) : (flagStep a b).Decides a b := by
  rw [flagStep_eq_ite hW]
  split_ifs with ha hb hsmall hsign
  · exact ha
  · exact ⟨ha, hb⟩
  · exact ⟨ha, hb, hsmall⟩
  · exact ⟨ha, hb, by omega, by omega, hsign⟩
  · exact ⟨ha, hb, by omega, by omega, hsign⟩

/-- A step decides in its case: the cases exclude each other. -/
theorem flagStep_eq_of_decides (hW : 2 ≤ W) {a b : BitVec W} {s : FlagStep} (h : s.Decides a b) :
    flagStep a b = s := by
  rw [flagStep_eq_ite hW]
  cases s
  case aIsMin => exact if_pos h
  case bIsMin =>
    obtain ⟨ha, hb⟩ := h
    rw [if_neg ha, if_pos hb]
  case small =>
    obtain ⟨ha, hb, hsmall⟩ := h
    rw [if_neg ha, if_neg hb, if_pos hsmall]
  case sameSign =>
    obtain ⟨ha, hb, hma, hmb, hsign⟩ := h
    rw [if_neg ha, if_neg hb, if_neg (by omega), if_pos hsign]
  case differentSigns =>
    obtain ⟨ha, hb, hma, hmb, hsign⟩ := h
    rw [if_neg ha, if_neg hb, if_neg (by omega), if_neg hsign]

/-- The algorithm's flag is the exact range test, step by step (rule R71). -/
theorem overflowsReference_eq_overflows (hW : 2 ≤ W) (a b : BitVec W) :
    overflowsReference a b = overflows a b := by
  have hpos : 0 < W := by omega
  have hcase := flagStep_decides hW a b
  rw [overflowsReference]
  cases hstep : flagStep a b <;> rw [hstep] at hcase
  case aIsMin =>
    obtain rfl : a = Config.minPattern W := hcase
    exact (overflows_minPattern_left b hW).symm
  case bIsMin =>
    obtain ⟨-, rfl⟩ := hcase
    exact (overflows_minPattern_right a hW).symm
  case small =>
    obtain ⟨ha, hb, hsmall⟩ := hcase
    exact (overflows_eq_false_of_small a b hpos ha hb hsmall).symm
  case sameSign =>
    obtain ⟨-, -, -, hb, hsign⟩ := hcase
    rw [overflows_of_sameSign hb hsign, flagOfStep, BitVec.ult, flagBound_toNat, magnitude_toNat,
      maxPattern_toNat hpos]
  case differentSigns =>
    obtain ⟨-, -, -, hb, hsign⟩ := hcase
    rw [overflows_of_differentSigns hb hsign, flagOfStep, BitVec.ult, flagBound_toNat,
      magnitude_toNat, minPattern_toNat hpos]

/-- With a divisor of at least 2 the quotient of a dividend up to `2^(W-1)` is at most `2^(W-2)`
(rule R72). -/
theorem div_le_two_pow_of_le (hW : 2 ≤ W) {n d : Nat} (hn : n ≤ 2 ^ (W - 1)) (hd : 2 ≤ d) :
    n / d ≤ 2 ^ (W - 2) := by
  calc n / d ≤ 2 ^ (W - 1) / 2 := Nat.div_le_div hn hd (by decide)
    _ = 2 ^ (W - 2) := by
        have hsucc : W - 1 = W - 2 + 1 := by omega
        rw [hsucc, Nat.pow_succ, Nat.mul_div_cancel _ (by decide)]

end Width

end Sys2Proof.Machine
end

section
/-! SUPPORT. The two responses, and the symbolic corner cases (rules R35, R61, R62, R74). -/

namespace Sys2Proof.Machine

/-- The 32-bit result keeps its signed value on the 64-bit port (rule R35). -/
theorem placeResult32_toInt (p : HalfWord) : (placeResult32 p).toInt = p.toInt :=
  BitVec.toInt_signExtend_of_le (by decide)

/-- The 32-bit result is the low half of the port (rule R35). -/
theorem placeResult32_lowHalf (p : HalfWord) : (placeResult32 p).extractLsb' 0 32 = p := by
  ext i hi
  have hlt : i < 64 := by omega
  simp [placeResult32, BitVec.getElem_signExtend, hi, hlt]

/-- The low half of the result of `MULO32` (rule R62). -/
theorem mulo32Response_r_lowHalf (a b : Word) :
    (mulo32Response a b).r.extractLsb' 0 32 = a.extractLsb' 0 32 * b.extractLsb' 0 32 := by
  rw [mulo32Response, placeResult32_lowHalf, wrappingProduct_eq_mul, operand32, operand32]

/-- The response of `MULO32` depends on the low halves of the ports alone (rule R35). -/
theorem mulo32Response_congr {a a' b b' : Word} (ha : a.extractLsb' 0 32 = a'.extractLsb' 0 32)
    (hb : b.extractLsb' 0 32 = b'.extractLsb' 0 32) : mulo32Response a b = mulo32Response a' b' := by
  rw [mulo32Response, mulo32Response, operand32, operand32, operand32, operand32, ha, hb]

section Width
variable {W : Nat}

/-- A factor -1, 0 or 1 beside any operand but the minimum: step 4 decides and the product is exact
(rule R74). -/
theorem product_flag_step_of_small_factor (hW : 2 ≤ W) {x : BitVec W}
    (hx : x ≠ Config.minPattern W) {c : Int} (hc : c.natAbs < 2) :
    (wrappingProduct (BitVec.ofInt W c) x).toInt = c * x.toInt ∧
      overflows (BitVec.ofInt W c) x = false ∧ flagStep (BitVec.ofInt W c) x = .small ∧
      flagStep x (BitVec.ofInt W c) = .small := by
  have hval := ofInt_toInt_of_natAbs_lt_two hW hc
  have hsmall : (BitVec.ofInt W c).toInt.natAbs < 2 := hval.symm ▸ hc
  have hmin := ne_minPattern_of_natAbs_lt_two hW hsmall
  have hclear := overflows_eq_false_of_small_left (BitVec.ofInt W c) x (by omega) hx hsmall
  refine ⟨?_, hclear, flagStep_eq_of_decides hW ⟨hmin, hx, .inl hsmall⟩,
    flagStep_eq_of_decides hW ⟨hx, hmin, .inr hsmall⟩⟩
  rw [wrappingProduct_toInt_of_not_overflows _ _ (by omega) hclear, hval]

/-- A square is never below the range (rule R74). -/
theorem overflows_self (x : BitVec W) :
    overflows x x = decide (Config.maxInt W < x.toInt ^ 2) := by
  have hmin : Config.minInt W ≤ 0 := neg_nonpos.mpr (by positivity)
  have hsq : 0 ≤ x.toInt ^ 2 := sq_nonneg _
  rw [Bool.eq_iff_iff, decide_eq_true_iff, overflows_eq_true_iff, ← pow_two]
  omega

/-- Exchanged operands exchange steps 1 and 2 (rule R74). -/
theorem flagStep_swap_of_aIsMin (hW : 2 ≤ W) {x y : BitVec W} (h : flagStep x y = .aIsMin)
    (hy : y ≠ Config.minPattern W) : flagStep y x = .bIsMin := by
  have hx : FlagStep.aIsMin.Decides x y := h ▸ flagStep_decides hW x y
  exact flagStep_eq_of_decides hW ⟨hy, hx⟩

/-- Exchanged operands exchange steps 2 and 1 (rule R74). -/
theorem flagStep_swap_of_bIsMin (hW : 2 ≤ W) {x y : BitVec W} (h : flagStep x y = .bIsMin) :
    flagStep y x = .aIsMin := by
  obtain ⟨-, hy⟩ : FlagStep.bIsMin.Decides x y := h ▸ flagStep_decides hW x y
  exact flagStep_eq_of_decides hW hy

end Width

end Sys2Proof.Machine
end

section
/-! SUPPORT. The statements about the contract, the flag algorithm and the corner cases of `MULO32` and
`MULO64` (rules R61, R62, R71, R72, R74), settled. -/

namespace Sys2Proof.Laws

open Sys2Proof.Machine

/-- Settles O37: both widths are the contract at any width; the sign extension of the 32-bit result
keeps its value. -/
theorem checkedContractIsExact : Obligations.CheckedContractIsExact := by
  constructor
  · rintro a b E rfl
    have hr : (mulo32Response a b).r.toInt = (wrappingProduct (operand32 a) (operand32 b)).toInt :=
      placeResult32_toInt _
    rw [hr]
    exact ⟨rfl, overflows_eq_true_iff _ _, wrappingProduct_toInt_of_not_overflows _ _ (by decide),
      wrappingProduct_toInt_of_overflows _ _⟩
  · rintro a b E rfl
    exact ⟨rfl, overflows_eq_true_iff a b, wrappingProduct_toInt_of_not_overflows a b (by decide),
      wrappingProduct_toInt_of_overflows a b⟩

/-- Settles O38: the flags agree at any width from 2 on. -/
theorem flagPathEqualsContract : Obligations.FlagPathEqualsContract := by
  have hflag {W : Nat} (hW : 2 ≤ W) (a b : BitVec W) : overflowsReference a b = overflows a b ∧
      muloReference a b = (wrappingProduct a b, overflows a b) := by
    have hv := overflowsReference_eq_overflows hW a b
    rw [muloReference, wrappingProduct_eq_mul, hv]
    exact ⟨rfl, rfl⟩
  exact ⟨hflag (by decide), hflag (by decide)⟩

/-- Settles O39: outside `MINW` nothing wraps, and step 4 leaves step 5 a divisor of at least 2. -/
theorem flagPathNeverWraps : Obligations.FlagPathNeverWraps := by
  intro W a b hWidth
  have hW : 2 ≤ W := by omega
  have hpos : 0 < W := by omega
  have hmax := maxPattern_toNat hpos
  have hmin := minPattern_toNat hpos
  refine ⟨fun ha => ⟨signMask_eq a, magnitude_toNat a, ?_⟩, hmax, hmin, fun hstep => ?_⟩
  · rw [magnitude_toNat]
    exact Nat.le_sub_one_of_lt (natAbs_toInt_lt_of_ne_minPattern hpos ha)
  · obtain ⟨ha, hb⟩ : 2 ≤ a.toInt.natAbs ∧ 2 ≤ b.toInt.natAbs := by
      have hcase := flagStep_decides hW a b
      obtain hstep | hstep := hstep <;> rw [hstep] at hcase
      all_goals
        obtain ⟨-, -, ha, hb, -⟩ := hcase
        exact ⟨ha, hb⟩
    rw [magnitude_toNat, magnitude_toNat, flagBound_toNat, flagBound_toNat, hmax, hmin]
    exact ⟨ha, hb, rfl, rfl, div_le_two_pow_of_le hW (Nat.sub_le _ _) hb,
      div_le_two_pow_of_le hW le_rfl hb⟩

/-- Settles O41: each result is the product of words, whose low half depends on the low halves only. -/
theorem checkedProductIsTheWideProduct : Obligations.CheckedProductIsTheWideProduct := by
  intro a b
  rw [mulo64Response_r, wmul64Response_r, mulo32Response_r_lowHalf,
    BitVec.extractLsb'_mul (by decide)]
  exact ⟨rfl, rfl, rfl, rfl⟩

/-- Settles O43: the fixed rows and the worked examples are computed at each width; the symbolic rows
hold at any width. -/
theorem checkedCornerCases : Obligations.CheckedCornerCases := by
  refine ⟨fun W hWidth => ?_, fun a a' b b' => mulo32Response_congr,
    fun b => mulo32Response_congr (by decide) rfl, by decide, by decide, by decide, by decide,
    by decide, by decide, by decide, by decide, by decide, by decide⟩
  have hW : 2 ≤ W := by omega
  refine ⟨?fixedRows, fun x hx c hc => ?smallFactor, fun x => ⟨?square, overflows_self x⟩,
    fun x y => ⟨wrappingProduct_comm x y, overflows_comm x y, flagStep_swap_of_aIsMin hW,
      flagStep_swap_of_bIsMin hW⟩⟩
  case fixedRows =>
    obtain rfl | rfl := hWidth
    · decide
    · decide
  case smallFactor =>
    have hsmall : c.natAbs < 2 := by omega
    obtain ⟨hprod, hflag, hleft, hright⟩ := product_flag_step_of_small_factor hW hx hsmall
    rw [wrappingProduct_comm x, overflows_comm x]
    exact ⟨hprod, hflag, hleft, hprod, hflag, hright⟩
  case square => rw [wrappingProduct, signedProduct, pow_two]

end Sys2Proof.Laws
end

section
/-! SUPPORT. The request and response words as pairs of inverse functions, and what the decoder and the
mask of the opcode table make of a request (rules R31 to R34). -/

namespace Sys2Proof

/-- Reading the fields of a request's word gives the request back (rule R31). -/
@[simp] theorem Request.ofWord_word (q : Request) : Request.ofWord q.word = q := by
  have hop : (Request.ofWord q.word).op = q.op := by
    apply BitVec.eq_of_getLsbD_eq
    intro i hi
    obtain ⟨hfield, -, -⟩ := Request.ofWord_getLsbD q.word i
    rw [hfield, Request.word_getLsbD, if_neg (by omega), if_neg (by omega),
      Nat.add_sub_cancel_left, decide_eq_true hi, Bool.true_and]
  have ha : (Request.ofWord q.word).a = q.a := by
    apply BitVec.eq_of_getLsbD_eq
    intro i hi
    obtain ⟨-, hfield, -⟩ := Request.ofWord_getLsbD q.word i
    rw [hfield, Request.word_getLsbD, if_neg (by omega), if_pos (by omega),
      Nat.add_sub_cancel_left, decide_eq_true hi, Bool.true_and]
  have hb : (Request.ofWord q.word).b = q.b := by
    apply BitVec.eq_of_getLsbD_eq
    intro i hi
    obtain ⟨-, -, hfield⟩ := Request.ofWord_getLsbD q.word i
    rw [hfield, Request.word_getLsbD, if_pos hi, decide_eq_true hi,
      Bool.true_and]
  exact congr (congrArg₂ Request.mk hop ha) hb

/-- Every word is made of its three fields (rule R31). -/
@[simp] theorem Request.word_ofWord (w : RequestWord) : (Request.ofWord w).word = w := by
  apply BitVec.eq_of_getLsbD_eq
  intro i hi
  obtain ⟨-, -, hb⟩ := Request.ofWord_getLsbD w i
  obtain ⟨-, ha, -⟩ := Request.ofWord_getLsbD w (i - 64)
  obtain ⟨hop, -, -⟩ := Request.ofWord_getLsbD w (i - 128)
  rw [Request.word_getLsbD]
  split_ifs with hlow hmid
  · rw [hb, decide_eq_true hlow, Bool.true_and]
  · rw [ha, decide_eq_true (by omega), Bool.true_and, Nat.add_sub_cancel' (by omega)]
  · rw [hop, decide_eq_true (by omega), Bool.true_and, Nat.add_sub_cancel' (by omega)]

/-- Reading the fields of a response's word gives the response back (rule R32). -/
@[simp] theorem Response.ofWord_word (x : Response) : Response.ofWord x.word = x := by
  have hr : (Response.ofWord x.word).r = x.r := by
    apply BitVec.eq_of_getLsbD_eq
    intro i hi
    rw [Response.ofWord, BitVec.getLsbD_extractLsb', Nat.zero_add, Response.word_getLsbD, if_pos hi,
      decide_eq_true hi, Bool.true_and]
  have hv : (Response.ofWord x.word).v = x.v := by
    rw [Response.ofWord, Response.word_getLsbD]
    simp
  exact congrArg₂ Response.mk hr hv

/-- Every response word is made of its two fields (rule R32). -/
@[simp] theorem Response.word_ofWord (y : ResponseWord) : (Response.ofWord y).word = y := by
  apply BitVec.eq_of_getLsbD_eq
  intro i hi
  rw [Response.word_getLsbD]
  split_ifs with hlow
  · rw [Response.ofWord, BitVec.getLsbD_extractLsb', Nat.zero_add, decide_eq_true hlow, Bool.true_and]
  · obtain rfl : i = 64 := by omega
    rfl

/-- The flag is bit 64 of the response word (rule R32). -/
theorem Response.word_flagBit (x : Response) : x.word.extractLsb' 64 1 = BitVec.ofBool x.v := by
  apply BitVec.eq_of_getLsbD_eq
  intro i hi
  obtain rfl : i = 0 := by omega
  rw [BitVec.getLsbD_extractLsb', Response.word_getLsbD]
  simp

/-- Decoding a request's word is decoding the request. -/
@[simp] theorem decode_word (q : Request) : decode q.word = decodeRequest q := by
  rw [decode, Request.ofWord_word]

/-- A request decodes to the instruction whose request it is, and to no other (rule R33). -/
theorem decodeRequest_eq_ok_iff (q : Request) (i : Instr) :
    decodeRequest q = .ok i ↔ q = i.request := by
  constructor
  · intro h
    unfold decodeRequest at h
    split at h
    · next o ho =>
      injection h with h
      subst h
      rw [Instr.request, Op.instr_op, Op.instr_a, Op.instr_b, ← (Op.ofCode_eq_some_iff _ _).mp ho]
    · cases h
  · rintro rfl
    simp only [decodeRequest, Instr.request, Op.ofCode_code, Instr.op_instr]

/-- A request is refused by the decoder exactly when its operation select is the reserved code
(rule R34). -/
theorem decodeRequest_eq_error_iff (q : Request) (e : DecodeError) :
    decodeRequest q = .error e ↔ q.op = 0b11#2 := by
  rw [← Op.ofCode_eq_none_iff]
  cases e
  unfold decodeRequest
  split
  · next o ho => simp [ho]
  · next ho => simp [ho]

/-- Any operation select but the reserved code decodes, whatever the operands (rules R22, R34). -/
theorem exists_decodeRequest_eq_ok {q : Request} (h : q.op ≠ 0b11#2) :
    ∃ i, decodeRequest q = .ok i := by
  cases hd : decodeRequest q with
  | ok i => exact ⟨i, rfl⟩
  | error e => exact absurd ((decodeRequest_eq_error_iff q e).mp hd) h

/-- A word decodes to an instruction exactly when it is that instruction's encoding. -/
theorem decode_eq_ok_iff (w : RequestWord) (i : Instr) : decode w = .ok i ↔ encode i = w := by
  rw [decode, decodeRequest_eq_ok_iff, encode]
  constructor
  · intro h
    rw [← h, Request.word_ofWord]
  · rintro rfl
    rw [Request.ofWord_word]

/-- The mask keeps the operation select of a request and clears both operands (rule R33). -/
theorem Request.word_and_opMask (q : Request) :
    q.word &&& opMask = (q.op ++ (0#64 : Word) ++ (0#64 : Word) : RequestWord) := by
  have hm : opMask = (0b11#2 ++ (0#64 : Word) ++ (0#64 : Word) : RequestWord) := by decide
  have hones : (0b11#2 : OpCode) = BitVec.allOnes 2 := by decide
  rw [hm, Request.word, BitVec.and_append, BitVec.and_append, BitVec.and_zero, BitVec.and_zero, hones,
    BitVec.and_allOnes]

/-- Two operation selects in the place of `op` above zeros are equal only when they are equal. -/
theorem opCode_append_zeros_inj (c d : OpCode) :
    (c ++ (0#64 : Word) ++ (0#64 : Word) : RequestWord) = d ++ (0#64 : Word) ++ (0#64 : Word) ↔
      c = d := by
  constructor
  · intro h
    have hop := congrArg (fun w => (Request.ofWord w).op) h
    have hfield (e : OpCode) :
        (Request.ofWord (e ++ (0#64 : Word) ++ (0#64 : Word) : RequestWord)).op = e :=
      congrArg Request.op (Request.ofWord_word { op := e, a := 0#64, b := 0#64 })
    rwa [hfield, hfield] at hop
  · rintro rfl
    rfl

/-- The masked word is an operation's match value exactly when the decoder selects that operation
(rule R33). -/
theorem and_opMask_eq_matchWord_iff (w : RequestWord) (o : Op) :
    w &&& opMask = o.matchWord ↔
      decode w = .ok (o.instr (w.extractLsb' 64 64) (w.extractLsb' 0 64)) := by
  obtain ⟨q, rfl⟩ : ∃ q : Request, q.word = w := ⟨_, Request.word_ofWord w⟩
  have hfields := Request.ofWord_word q
  have ha : q.word.extractLsb' 64 64 = q.a := congrArg Request.a hfields
  have hb : q.word.extractLsb' 0 64 = q.b := congrArg Request.b hfields
  rw [Request.word_and_opMask, ← Laws.code_append_zeros, opCode_append_zeros_inj, decode_word, ha, hb,
    decodeRequest_eq_ok_iff, Instr.request, Op.instr_op, Op.instr_a, Op.instr_b]
  exact ⟨fun h => h ▸ rfl, congrArg Request.op⟩

/-- The masked word is the mask itself exactly when the decoder refuses (rule R34). -/
theorem and_opMask_eq_opMask_iff (w : RequestWord) :
    w &&& opMask = opMask ↔ decode w = .error .reservedOp := by
  have hm : opMask = (0b11#2 ++ (0#64 : Word) ++ (0#64 : Word) : RequestWord) := by decide
  obtain ⟨q, rfl⟩ : ∃ q : Request, q.word = w := ⟨_, Request.word_ofWord w⟩
  rw [Request.word_and_opMask, hm, opCode_append_zeros_inj, decode_word, decodeRequest_eq_error_iff]

end Sys2Proof
end

section
/-! SUPPORT. The statements about the request and response words (rules R31 to R34), settled. -/

namespace Sys2Proof.Laws

/-- Settles O1: the request of an instruction is read back from its word and decodes to it. -/
theorem decodeOfEncode : Obligations.DecodeOfEncode :=
  fun i _ => (decode_eq_ok_iff (encode i) i).mpr rfl

/-- Settles O2: a word is made of its fields, and the operation select is the code of the operation. -/
theorem encodeOfDecode : Obligations.EncodeOfDecode :=
  fun w i => (decode_eq_ok_iff w i).mp

/-- Settles O3: reading the fields and packing them are inverse to each other. -/
theorem requestWordFields : Obligations.RequestWordFields := by
  refine ⟨fun q => ?_, Request.word_ofWord⟩
  have hfields := Request.ofWord_word q
  exact ⟨congrArg Request.op hfields, congrArg Request.a hfields, congrArg Request.b hfields, hfields⟩

/-- Settles O4: reading the fields and packing them are inverse to each other. -/
theorem responseWordFields : Obligations.ResponseWordFields := by
  refine ⟨fun x => ?_, Response.word_ofWord⟩
  have hfields := Response.ofWord_word x
  exact ⟨Response.word_flagBit x, congrArg Response.r hfields, hfields⟩

/-- Settles O5: the mask keeps the operation select alone, and each match value is one code there. -/
theorem maskAndMatchSelectOperation : Obligations.MaskAndMatchSelectOperation := fun w =>
  ⟨and_opMask_eq_matchWord_iff w .wmul64, and_opMask_eq_matchWord_iff w .mulo32,
    and_opMask_eq_matchWord_iff w .mulo64, and_opMask_eq_opMask_iff w⟩

/-- Settles O6: the first four words are encodings; the last has the reserved code in its two top
bits. -/
theorem writtenOutWordsDecode : Obligations.WrittenOutWordsDecode := by
  refine ⟨(decode_eq_ok_iff _ _).mpr ?_, (decode_eq_ok_iff _ _).mpr ?_, (decode_eq_ok_iff _ _).mpr ?_,
    (decode_eq_ok_iff _ _).mpr ?_, (decodeRequest_eq_error_iff _ _).mpr ?_⟩ <;> decide

end Sys2Proof.Laws
end

section
/-! SUPPORT. What a step does, by what it finds on the ports, and what the response ports carry (rules R90,
R91, R97). -/

namespace Sys2Proof.Machine

/-- The response that enters the block outside reset: that of the request presented, if there is one
and its operation select is defined (rules R90, R97). -/
def State.entry (s : State) : Option Response :=
  if s.ports.reqValid then requestResponse s.ports.req else none

section Edge
variable {s : State}

/-- A decoded request is answered with the response of its instruction (rule R7). -/
theorem requestResponse_of_decodes {q : Request} {i : Instr} (hd : decodeRequest q = .ok i) :
    requestResponse q = some (responseOf i) := by
  rw [requestResponse, hd]

/-- The reserved code has no specified response (rule R34). -/
theorem requestResponse_of_reserved {q : Request} (hop : q.op = 0b11#2) :
    requestResponse q = none := by
  rw [requestResponse, (decodeRequest_eq_error_iff q .reservedOp).mpr hop]

/-- What decodes has not the reserved code (rule R34). -/
theorem op_ne_reserved_of_decodes {q : Request} {i : Instr} (hd : decodeRequest q = .ok i) :
    q.op ≠ 0b11#2 := by
  intro hop
  rw [(decodeRequest_eq_error_iff q .reservedOp).mpr hop] at hd
  cases hd

/-- Without a request nothing enters (rule R97). -/
theorem State.entry_of_idle (hv : s.ports.reqValid = false) : s.entry = none := by
  simp [State.entry, hv]

/-- An accepted request enters as its response (rule R90). -/
theorem State.entry_of_decodes {i : Instr} (hv : s.ports.reqValid = true)
    (hd : decodeRequest s.ports.req = .ok i) : s.entry = some (responseOf i) := by
  rw [State.entry, if_pos hv, requestResponse_of_decodes hd]

/-- The reserved code enters as nothing (rule R34). -/
theorem State.entry_of_reserved (hop : s.ports.req.op = 0b11#2) : s.entry = none := by
  rw [State.entry, requestResponse_of_reserved hop, ite_self]

/-- An edge with `rst = 1` (rule R91). -/
theorem step_of_reset (hp : s.pipe ≠ []) (hr : s.ports.rst = true) : step s = .next s.resetEdge := by
  rw [step, (State.cycle_eq_inReset_iff s).mpr ⟨hp, hr⟩]

/-- An idle evaluation or edge (rule R97). -/
theorem step_of_idle (ho : s.pipe = [] ∨ s.ports.rst = false) (hv : s.ports.reqValid = false) :
    step s = .next (s.clock none) := by
  rw [step, (State.cycle_eq_idle_iff s).mpr ⟨ho, hv⟩]

/-- An accepted request runs its instruction (rules R90, R91). -/
theorem step_of_decodes {i : Instr} (ho : s.pipe = [] ∨ s.ports.rst = false)
    (hv : s.ports.reqValid = true) (hd : decodeRequest s.ports.req = .ok i) : step s = exec i s := by
  rw [step, (State.cycle_eq_request_iff s _).mpr ⟨ho, hv, rfl⟩]
  simp only [decode_word, hd]

/-- An accepted request with the reserved code is refused (rule R34). -/
theorem step_of_reserved (ho : s.pipe = [] ∨ s.ports.rst = false) (hv : s.ports.reqValid = true)
    (hop : s.ports.req.op = 0b11#2) : step s = .refused .reservedOp := by
  rw [step, (State.cycle_eq_request_iff s _).mpr ⟨ho, hv, rfl⟩]
  simp only [decode_word, (decodeRequest_eq_error_iff s.ports.req .reservedOp).mpr hop]

/-- Outside reset a request with a defined code, or none, is answered with what enters (rules R90,
R97). -/
theorem step_of_outside_reset (ho : s.pipe = [] ∨ s.ports.rst = false)
    (hq : s.ports.reqValid = true → s.ports.req.op ≠ 0b11#2) : step s = .next (s.clock s.entry) := by
  cases hv : s.ports.reqValid
  case false => rw [State.entry_of_idle hv, step_of_idle ho hv]
  case true =>
    obtain ⟨i, hd⟩ := exists_decodeRequest_eq_ok (hq hv)
    rw [State.entry_of_decodes hv hd, step_of_decodes ho hv hd, exec_eq_next]

/-- The three things a step can find: a reset edge, an accepted request with the reserved code, and
anything else. -/
theorem step_cases (s : State) :
    (s.pipe ≠ [] ∧ s.ports.rst = true ∧ step s = .next s.resetEdge) ∨
    ((s.pipe = [] ∨ s.ports.rst = false) ∧ s.ports.reqValid = true ∧ s.ports.req.op = 0b11#2 ∧
      step s = .refused .reservedOp) ∨
    ((s.pipe = [] ∨ s.ports.rst = false) ∧ (s.ports.reqValid = true → s.ports.req.op ≠ 0b11#2) ∧
      step s = .next (s.clock s.entry)) := by
  by_cases ho : s.pipe = [] ∨ s.ports.rst = false
  · by_cases hq : s.ports.reqValid = true ∧ s.ports.req.op = 0b11#2
    · obtain ⟨hv, hop⟩ := hq
      exact .inr (.inl ⟨ho, hv, hop, step_of_reserved ho hv hop⟩)
    · have hq' := not_and.mp hq
      exact .inr (.inr ⟨ho, hq', step_of_outside_reset ho hq'⟩)
  · obtain ⟨hp, hr⟩ := not_or.mp ho
    rw [Bool.not_eq_false] at hr
    exact .inl ⟨hp, hr, step_of_reset hp hr⟩

/-- All that a step which answers can have done (rules R90, R91). -/
theorem eq_resetEdge_or_clock_of_step {t : State} (h : step s = .next t) :
    (s.pipe ≠ [] ∧ s.ports.rst = true ∧ t = s.resetEdge) ∨
    ((s.pipe = [] ∨ s.ports.rst = false) ∧ (s.ports.reqValid = true → s.ports.req.op ≠ 0b11#2) ∧
      t = s.clock s.entry) := by
  obtain ⟨hc, rfl⟩ | ⟨hc, rfl⟩ | ⟨w, i, hc, hd, rfl⟩ := step_eq_next_cases h
  · obtain ⟨hp, hr⟩ := (State.cycle_eq_inReset_iff s).mp hc
    exact .inl ⟨hp, hr, rfl⟩
  · obtain ⟨ho, hv⟩ := (State.cycle_eq_idle_iff s).mp hc
    refine .inr ⟨ho, fun hv' => ?_, congrArg s.clock (State.entry_of_idle hv).symm⟩
    exact absurd (hv.symm.trans hv') Bool.false_ne_true
  · obtain ⟨ho, hv, rfl⟩ := (State.cycle_eq_request_iff s w).mp hc
    rw [decode_word] at hd
    exact .inr ⟨ho, fun _ => op_ne_reserved_of_decodes hd,
      congrArg s.clock (State.entry_of_decodes hv hd).symm⟩

/-- Without stages an edge hands the entry to the host at once (rule R90). -/
theorem State.clock_of_pipe_nil (e : Option Response) (hp : s.pipe = []) :
    (s.clock e).pipe = [] ∧ (s.clock e).responses = s.responses ++ e.toList := by
  rw [State.clock_pipe, State.clock_responses, hp]
  exact ⟨rfl, rfl⟩

/-- With stages the entry goes in at the first and the host gets what was due (rule R91). -/
theorem State.clock_of_pipe_concat (e : Option Response) {front : List (Option Response)}
    {last : Option Response} (hp : s.pipe = front ++ [last]) :
    (s.clock e).pipe = e :: front ∧ (s.clock e).responses = s.responses ++ last.toList := by
  rw [State.clock_pipe, State.clock_responses, hp, pipeAfter_concat, pipeOutput_concat]
  exact ⟨rfl, rfl⟩

/-- A response that enters is delivered at once or stands in the first stage (rules R90, R91). -/
theorem State.clock_some_delivers (s : State) (x : Response) :
    (s.pipe = [] ∧ (s.clock (some x)).responses = s.responses ++ [x]) ∨
      (s.pipe ≠ [] ∧ (s.clock (some x)).pipe.head? = some (some x)) := by
  rcases List.eq_nil_or_concat' s.pipe with hp | ⟨front, last, hp⟩
  · exact .inl ⟨hp, (State.clock_of_pipe_nil _ hp).2⟩
  · refine .inr ⟨by simp [hp], ?_⟩
    rw [(State.clock_of_pipe_concat _ hp).1, List.head?_cons]

/-- A step that answers an accepted request is the edge at which the response of the decoded
instruction enters. -/
theorem eq_clock_responseOf_of_step {t : State} (ho : s.pipe = [] ∨ s.ports.rst = false)
    (hv : s.ports.reqValid = true) (h : step s = .next t) :
    ∃ i, decodeRequest s.ports.req = .ok i ∧ t = s.clock (some (responseOf i)) := by
  obtain ⟨hc, -⟩ | ⟨hc, -⟩ | ⟨w, i, hc, hd, rfl⟩ := step_eq_next_cases h
  · obtain ⟨hp, hr⟩ := (State.cycle_eq_inReset_iff s).mp hc
    simp [hp, hr] at ho
  · obtain ⟨-, hidle⟩ := (State.cycle_eq_idle_iff s).mp hc
    exact absurd (hidle.symm.trans hv) Bool.false_ne_true
  · obtain ⟨-, -, rfl⟩ := (State.cycle_eq_request_iff s w).mp hc
    rw [decode_word] at hd
    exact ⟨i, hd, rfl⟩

/-- `rsp_valid` and the response ports without stages (rule R90). -/
theorem State.rspValid_of_pipe_nil (hp : s.pipe = []) : s.rspValid = s.ports.reqValid := by
  simp only [State.rspValid, hp, List.getLast?_nil]

theorem State.rspPort_of_pipe_nil (hp : s.pipe = []) : s.rspPort = s.entry := by
  simp only [State.rspPort, hp, List.getLast?_nil, State.entry]

/-- `rsp_valid` and the response ports with stages: the last one shows, except in reset (rule R91). -/
theorem State.rspValid_of_pipe_concat {front : List (Option Response)} {last : Option Response}
    (hp : s.pipe = front ++ [last]) : s.rspValid = (!s.ports.rst && last.isSome) := by
  simp only [State.rspValid, hp, List.getLast?_concat]

theorem State.rspPort_of_pipe_concat {front : List (Option Response)} {last : Option Response}
    (hp : s.pipe = front ++ [last]) : s.rspPort = if s.ports.rst then none else last := by
  simp only [State.rspPort, hp, List.getLast?_concat]

/-- The port shows a response exactly while `rsp_valid` is 1, unless the reserved code is presented
to a block without stages (rules R19, R34). -/
theorem State.isSome_rspPort (hq : s.ports.reqValid = true → s.ports.req.op ≠ 0b11#2) :
    s.rspPort.isSome = s.rspValid := by
  rcases List.eq_nil_or_concat' s.pipe with hp | ⟨front, last, hp⟩
  · rw [State.rspPort_of_pipe_nil hp, State.rspValid_of_pipe_nil hp]
    cases hv : s.ports.reqValid
    case false => rw [State.entry_of_idle hv, Option.isSome_none]
    case true =>
      obtain ⟨i, hd⟩ := exists_decodeRequest_eq_ok (hq hv)
      rw [State.entry_of_decodes hv hd, Option.isSome_some]
  · rw [State.rspPort_of_pipe_concat hp, State.rspValid_of_pipe_concat hp]
    cases s.ports.rst <;> rfl

/-- An edge outside reset hands to the host what the response ports carry (rule R93). -/
theorem State.clock_entry_responses (ho : s.pipe = [] ∨ s.ports.rst = false) :
    (s.clock s.entry).responses = s.responses ++ s.rspPort.toList := by
  rcases List.eq_nil_or_concat' s.pipe with hp | ⟨front, last, hp⟩
  · rw [(State.clock_of_pipe_nil _ hp).2, State.rspPort_of_pipe_nil hp]
  · have hr : s.ports.rst = false := ho.resolve_left (by simp [hp])
    rw [(State.clock_of_pipe_concat _ hp).2, State.rspPort_of_pipe_concat hp, hr]
    rfl

/-- In reset `rsp_valid` is 0 and the ports carry nothing (rule R91). -/
theorem State.rspValid_rspPort_of_reset (hp : s.pipe ≠ []) (hr : s.ports.rst = true) :
    s.rspValid = false ∧ s.rspPort = none := by
  obtain ⟨front, last, hp⟩ := (List.eq_nil_or_concat' s.pipe).resolve_left hp
  rw [State.rspValid_of_pipe_concat hp, State.rspPort_of_pipe_concat hp, hr]
  exact ⟨rfl, rfl⟩

end Edge

/-- The response of `MULO32` in the observable form of rule R60. -/
theorem mulo32Response_eq (a b : Word) {E : Int}
    (hE : E = (a.extractLsb' 0 32).toInt * (b.extractLsb' 0 32).toInt) :
    mulo32Response a b =
      { r := (BitVec.ofInt 32 E).signExtend 64, v := decide (E < -2147483648 ∨ 2147483647 < E) } := by
  subst hE
  rw [Bool.decide_or]
  rfl

/-- The response of `MULO64` in the observable form of rule R59. -/
theorem mulo64Response_eq (a b : Word) {E : Int} (hE : E = a.toInt * b.toInt) :
    mulo64Response a b =
      { r := BitVec.ofInt 64 E,
        v := decide (E < -9223372036854775808 ∨ 9223372036854775807 < E) } := by
  subst hE
  rw [Bool.decide_or]
  rfl

end Sys2Proof.Machine
end

section
/-! SUPPORT. The statements about one step (rules R34, R35, R59, R60, R90, R91, R97), settled. -/

namespace Sys2Proof.Laws

open Sys2Proof.Machine

/-- Settles O7: the decoder reads the request of the word it is given. -/
theorem stepRunsPresentedInstruction : Obligations.StepRunsPresentedInstruction := by
  constructor
  · intro s i ho hv hd
    rw [decode_word] at hd
    exact step_of_decodes ho hv hd
  · intro s nbits w i hd
    have hok : decodeRequest (Request.ofWord (tableWord nbits w)) = .ok i := by
      unfold decodeTableWord at hd
      split at hd
      · next j hj => rwa [← Option.some.inj hd]
      · cases hd
    exact step_of_decodes (.inr rfl) rfl hok

/-- Settles O8: `WMUL64` is one edge at which its response enters. -/
theorem wmul64Answers : Obligations.Wmul64Answers := by
  intro s a b
  exact ⟨_, exec_eq_next _ s, rfl, rfl, State.clock_of_pipe_nil _,
    fun _ _ => State.clock_of_pipe_concat _⟩

/-- Settles O9: `MULO32` is one edge at which its response enters. -/
theorem mulo32Answers : Obligations.Mulo32Answers := by
  rintro s a b E x hE rfl
  rw [← mulo32Response_eq a b hE]
  exact ⟨_, exec_eq_next _ s, rfl, rfl, State.clock_of_pipe_nil _,
    fun _ _ => State.clock_of_pipe_concat _⟩

/-- Settles O10: `MULO64` is one edge at which its response enters. -/
theorem mulo64Answers : Obligations.Mulo64Answers := by
  rintro s a b E x hE rfl
  rw [← mulo64Response_eq a b hE]
  exact ⟨_, exec_eq_next _ s, rfl, rfl, State.clock_of_pipe_nil _,
    fun _ _ => State.clock_of_pipe_concat _⟩

/-- Settles O11: in reset and outside it, what an idle step does names no request field. -/
theorem idleCycleRequestsNothing : Obligations.IdleCycleRequestsNothing := by
  intro s hv
  refine ⟨fun q => ?ignored, fun hp => ?noPipe, fun front last hp hr => ?pipe⟩
  case ignored =>
    by_cases ho : s.pipe = [] ∨ s.ports.rst = false
    · rw [step_of_idle ho hv]
      exact step_of_idle (s := { s with ports := { s.ports with req := q } }) ho hv
    · obtain ⟨hp, hr⟩ := not_or.mp ho
      rw [Bool.not_eq_false] at hr
      rw [step_of_reset hp hr]
      exact step_of_reset (s := { s with ports := { s.ports with req := q } }) hp hr
  case noPipe =>
    obtain ⟨hpipe, hresp⟩ := State.clock_of_pipe_nil none hp
    rw [Option.toList_none, List.append_nil] at hresp
    exact ⟨_, step_of_idle (.inl hp) hv, hpipe, hresp, rfl, rfl⟩
  case pipe =>
    obtain ⟨hpipe, hresp⟩ := State.clock_of_pipe_concat none hp
    exact ⟨_, step_of_idle (.inr hr) hv, hpipe, hresp, rfl, rfl⟩

/-- Settles O12: such a step is the reset edge. -/
theorem resetEdgeDropsWhatIsInFlight : Obligations.ResetEdgeDropsWhatIsInFlight := by
  intro s hp hr
  obtain ⟨hvalid, -⟩ := State.rspValid_rspPort_of_reset hp hr
  exact ⟨hvalid, s.resetEdge, step_of_reset hp hr, State.resetEdge_latency s,
    fun _ => List.eq_of_mem_replicate, State.resetEdge_inFlight s, rfl, rfl, rfl⟩

/-- Settles O13: without stages a step and both views are given by the request and `req_valid`. -/
theorem noResetInputAtLatencyZero : Obligations.NoResetInputAtLatencyZero := by
  intro s level hp
  have hviews : State.rspValid { s with ports := { s.ports with rst := level } } = s.rspValid ∧
      State.rspPort { s with ports := { s.ports with rst := level } } = s.rspPort := by
    rw [State.rspValid_of_pipe_nil hp, State.rspPort_of_pipe_nil hp]
    exact ⟨State.rspValid_of_pipe_nil hp, State.rspPort_of_pipe_nil hp⟩
  refine ⟨?_, hviews⟩
  obtain ⟨hpipe, -⟩ | ⟨-, hv, hop, hs⟩ | ⟨-, hq, hs⟩ := step_cases s
  · exact absurd hp hpipe
  · rw [hs]
    exact step_of_reserved (.inl hp) hv hop
  · rw [hs]
    exact step_of_outside_reset (.inl hp) hq

/-- Settles O14: the ports carry the response of the request presented, and each code decodes to its
operation. -/
theorem combinationalResponsePorts : Obligations.CombinationalResponsePorts := by
  intro s hp
  have hport (o : Op) (hv : s.ports.reqValid = true) (hop : s.ports.req.op = o.code) :
      s.rspPort = some (responseOf (o.instr s.ports.req.a s.ports.req.b)) := by
    have hreq : s.ports.req = (o.instr s.ports.req.a s.ports.req.b).request := by
      rw [Instr.request, Op.instr_op, Op.instr_a, Op.instr_b, ← hop]
    rw [State.rspPort_of_pipe_nil hp,
      State.entry_of_decodes hv ((decodeRequest_eq_ok_iff _ _).mpr hreq)]
  exact ⟨State.rspValid_of_pipe_nil hp, hport .wmul64, hport .mulo32, hport .mulo64⟩

/-- Settles O15: outside reset the host gets what the ports carry, and a reset edge shows and delivers
nothing. -/
theorem hostReceivesTheResponsePorts : Obligations.HostReceivesTheResponsePorts := by
  intro s t h
  obtain ⟨hp, hr, rfl⟩ | ⟨ho, hq, rfl⟩ := eq_resetEdge_or_clock_of_step h
  · obtain ⟨hvalid, hport⟩ := State.rspValid_rspPort_of_reset hp hr
    rw [hvalid, hport]
    exact ⟨fun h => absurd h Bool.false_ne_true, fun _ => ⟨rfl, rfl⟩⟩
  · rw [State.clock_entry_responses ho, ← State.isSome_rspPort hq]
    constructor
    · intro hsome
      obtain ⟨x, hx⟩ := Option.isSome_iff_exists.mp hsome
      rw [hx]
      exact ⟨x, rfl, rfl⟩
    · intro hnone
      have hx := Option.isNone_iff_eq_none.mp (Option.isSome_eq_false_iff.mp hnone)
      rw [hx]
      exact ⟨rfl, List.append_nil _⟩

/-- Settles O16: every other code decodes. -/
theorem reservedRequestIsRefused : Obligations.ReservedRequestIsRefused := by
  intro s ho hv
  refine ⟨fun hop => ⟨(decodeRequest_eq_error_iff _ _).mpr hop, step_of_reserved ho hv hop,
    fun hp => ?_⟩, fun hop => ⟨_, step_of_outside_reset ho fun _ => hop⟩⟩
  rw [State.rspValid_of_pipe_nil hp, State.rspPort_of_pipe_nil hp, State.entry_of_reserved hop]
  exact ⟨hv, rfl⟩

/-- Settles O17: of the three things a step can find, one stops, and by that refusal. -/
theorem onlyTheReservedRequestStops : Obligations.OnlyTheReservedRequestStops := by
  intro s
  refine ⟨fun f _ => (nomatch f), fun r h => ?_⟩
  obtain ⟨-, -, hs⟩ | ⟨ho, hv, hop, hs⟩ | ⟨-, -, hs⟩ := step_cases s
  · rw [hs] at h
    cases h
  · rw [hs] at h
    injection h with h
    exact ⟨h.symm, hv, hop, ho⟩
  · rw [hs] at h
    cases h

/-- Settles O27: what enters is a function of the request alone; without stages it is delivered, and
with stages it is the first of them. -/
theorem sameRequestSameResponse : Obligations.SameRequestSameResponse := by
  intro s s' t t' hv hv' ho ho' hreq hs hs'
  obtain ⟨i, hd, rfl⟩ := eq_clock_responseOf_of_step ho hv hs
  obtain ⟨i', hd', rfl⟩ := eq_clock_responseOf_of_step ho' hv' hs'
  obtain rfl : i = i' := Except.ok.inj (hd.symm.trans (hreq ▸ hd'))
  exact ⟨responseOf i, s.clock_some_delivers _, s'.clock_some_delivers _⟩

end Sys2Proof.Laws
end

section
/-! SUPPORT. What every edge keeps, and runs of edges: safe use, the expected responses, and what has left
the pipeline after a number of steps (rules R91, R93, R94). -/

namespace Sys2Proof.Machine

section Step
variable {s t : State}

/-- Every step that answers has the host drive its next ports, keeps `LATENCY` and so the reset
input. -/
theorem inputs_and_latency_of_step (h : step s = .next t) :
    t.inputs = s.advanceHost.inputs ∧ t.latency = s.latency := by
  obtain ⟨-, -, rfl⟩ | ⟨-, -, rfl⟩ := eq_resetEdge_or_clock_of_step h
  · exact ⟨rfl, State.resetEdge_latency s⟩
  · exact ⟨rfl, State.clock_latency _ s⟩

/-- What held of all inputs, and holds of idle ports, holds of the inputs that are left. -/
theorem all_inputs_advanceHost {p : Ports → Bool} (hidle : p Ports.idle = true)
    (h : s.inputs.all p = true) : s.advanceHost.inputs.all p = true := by
  have hhost : s.host.all p = true := by
    rw [State.inputs, List.all_cons, Bool.and_eq_true] at h
    exact h.2
  cases hs : s.host with
  | nil => simp [State.inputs, hs, hidle]
  | cons q qs => simpa [State.inputs, hs] using hhost

/-- Safe use is kept (rule R34). -/
theorem safe_of_step (hsafe : s.safe = true) (h : step s = .next t) : t.safe = true := by
  obtain ⟨hin, hlat⟩ := inputs_and_latency_of_step h
  rw [State.safe, hin, State.hasClockReset, hlat]
  exact all_inputs_advanceHost (by simp [Ports.safe]) hsafe

/-- A host that asserts no reset goes on so (rule R94). -/
theorem noReset_of_step (hno : s.noReset = true) (h : step s = .next t) : t.noReset = true := by
  obtain ⟨hin, hlat⟩ := inputs_and_latency_of_step h
  rw [State.noReset, hin, State.hasClockReset, hlat]
  exact all_inputs_advanceHost (by simp) hno

/-- In safe use a request accepted now has a defined code. -/
theorem op_ne_reserved_of_safe (hsafe : s.safe = true) (ho : s.pipe = [] ∨ s.ports.rst = false)
    (hv : s.ports.reqValid = true) : s.ports.req.op ≠ 0b11#2 := by
  have hreset : (s.hasClockReset && s.ports.rst) = false := by
    obtain hp | hr := ho
    · rw [State.hasClockReset_of_pipe_nil hp, Bool.false_and]
    · rw [hr, Bool.and_false]
  rw [State.safe, State.inputs, List.all_cons, Bool.and_eq_true] at hsafe
  simpa [Ports.safe, hreset, hv, Request.legal] using hsafe.1

/-- Without reset the ports now are outside reset. -/
theorem outside_reset_of_noReset (hno : s.noReset = true) : s.pipe = [] ∨ s.ports.rst = false := by
  rw [State.noReset, State.inputs, List.all_cons, Bool.and_eq_true] at hno
  have hnow := hno.1
  have hclk := State.hasClockReset_eq_true_iff s
  by_cases hp : s.pipe = []
  · exact .inl hp
  · rw [hclk.mpr hp] at hnow
    exact .inr (by simpa using hnow)

/-- In safe use a step answers, in reset and outside it (rules R34, R80). -/
theorem exists_step_of_safe (hsafe : s.safe = true) : ∃ t, step s = .next t := by
  obtain ⟨-, -, hs⟩ | ⟨ho, hv, hop, -⟩ | ⟨-, -, hs⟩ := step_cases s
  · exact ⟨_, hs⟩
  · exact absurd hop (op_ne_reserved_of_safe hsafe ho hv)
  · exact ⟨_, hs⟩

/-- In safe use without reset a step is the edge at which the presented request's response enters. -/
theorem step_of_safe (hsafe : s.safe = true) (hno : s.noReset = true) :
    step s = .next (s.clock s.entry) :=
  have ho := outside_reset_of_noReset hno
  step_of_outside_reset ho (op_ne_reserved_of_safe hsafe ho)

/-- What is presented: what enters now, then what the host presents later. -/
theorem presented_filterMap_requestResponse (s : State) :
    s.presented.filterMap requestResponse =
      s.entry.toList ++ s.advanceHost.presented.filterMap requestResponse := by
  rw [State.presented_eq, State.advanceHost_presented, List.filterMap_append, State.entry]
  congr 1
  cases s.ports.reqValid
  · rfl
  · cases hx : requestResponse s.ports.req <;> simp [hx]

/-- What enters answers a request that is presented and decodes. -/
theorem exists_decodes_of_entry {x : Response} (hx : s.entry = some x) :
    ∃ i, s.ports.req ∈ s.presented ∧ decodeRequest s.ports.req = .ok i ∧ x = responseOf i := by
  cases hv : s.ports.reqValid
  case false =>
    rw [State.entry_of_idle hv] at hx
    cases hx
  case true =>
    have hmem : s.ports.req ∈ s.presented := by
      rw [State.presented_eq, if_pos hv]
      exact List.mem_append_left _ (List.mem_singleton_self _)
    have hq : s.ports.req.op ≠ 0b11#2 := by
      intro hop
      rw [State.entry_of_reserved hop] at hx
      cases hx
    obtain ⟨i, hd⟩ := exists_decodeRequest_eq_ok hq
    rw [State.entry_of_decodes hv hd] at hx
    exact ⟨i, hmem, hd, (Option.some.inj hx).symm⟩

/-- Without reset what the host will have received in the end stays the same: what leaves the ports
enters the pipeline (rule R93). -/
theorem expected_of_step (hno : s.noReset = true) (h : step s = .next t) : t.expected = s.expected := by
  obtain ⟨hp, hr, -⟩ | ⟨-, -, rfl⟩ := eq_resetEdge_or_clock_of_step h
  · have ho := outside_reset_of_noReset hno
    simp [hp, hr] at ho
  · rw [State.expected, State.clock_responses_append_inFlight, State.clock_presented, State.expected,
      presented_filterMap_requestResponse s, List.append_assoc]

end Step

/-! ### Runs -/

/-- A run that begins with a step that answers. -/
theorem run_succ_of_step (M : Host.Core) (k : Nat) {s t : M.State} (h : M.step s = .next t) :
    M.run (k + 1) s = M.run k t := by
  rw [Host.Core.run, h]

/-- A run that answers begins with a step that answers. -/
theorem exists_step_of_run_succ (M : Host.Core) {k : Nat} {s t : M.State}
    (h : M.run (k + 1) s = .next t) : ∃ m, M.step s = .next m ∧ M.run k m = .next t := by
  rw [Host.Core.run] at h
  split at h
  · next m hm => exact ⟨m, hm, h⟩
  · cases h
  · cases h

/-- A run is followed by a run from where it ends. -/
theorem run_add {m t : State} {k n : Nat} :
    ∀ {s : State}, Sys2Proof.core.run k s = .next m → Sys2Proof.core.run n m = .next t →
      Sys2Proof.core.run (k + n) s = .next t := by
  induction k with
  | zero =>
    intro s hk hn
    injection hk with hk
    subst hk
    rwa [Nat.zero_add]
  | succ k ih =>
    intro s hk hn
    obtain ⟨s', hs, hk⟩ := exists_step_of_run_succ _ hk
    rw [Nat.succ_add, run_succ_of_step Sys2Proof.core _ hs]
    exact ih hk hn

/-- What every step keeps, a run keeps. -/
theorem inv_of_run {Inv : State → Prop} (keeps : ∀ s t, Inv s → step s = .next t → Inv t) {k : Nat}
    {t : State} : ∀ {s : State}, Inv s → Sys2Proof.core.run k s = .next t → Inv t := by
  induction k with
  | zero =>
    intro s hinv h
    injection h with h
    exact h ▸ hinv
  | succ k ih =>
    intro s hinv h
    obtain ⟨m, hm, h⟩ := exists_step_of_run_succ _ h
    exact ih (keeps s m hinv hm) h

/-- In safe use a run of any length answers (rule R95). -/
theorem exists_run_of_safe (k : Nat) {s : State} (hsafe : s.safe = true) :
    ∃ t : State, Sys2Proof.core.run k s = .next t := by
  induction k generalizing s with
  | zero => exact ⟨s, rfl⟩
  | succ k ih =>
    obtain ⟨m, hm⟩ := exists_step_of_safe hsafe
    rw [run_succ_of_step Sys2Proof.core k hm]
    exact ih (safe_of_step hsafe hm)

/-- A run of `k` steps takes the first `k` port values off what the host drives. -/
theorem presented_of_run {k : Nat} {t : State} :
    ∀ {s : State}, Sys2Proof.core.run k s = .next t →
      t.presented = (s.inputs.drop k).filterMap fun p => if p.reqValid then some p.req else none := by
  induction k with
  | zero =>
    intro s h
    injection h with h
    exact h ▸ rfl
  | succ k ih =>
    intro s h
    obtain ⟨m, hm, h⟩ := exists_step_of_run_succ _ h
    obtain ⟨hin, -⟩ := inputs_and_latency_of_step hm
    rw [ih h, hin]
    cases hs : s.host with
    | nil => cases k <;> simp [State.inputs, hs]
    | cons p ps => simp [State.inputs, hs]

/-- In safe use without reset the last `back.length` places of the entry and the stages behind it leave
in as many steps, in order, and the places before them are then the last ones (rules R91, R96). -/
theorem run_drains (back : List (Option Response)) :
    ∀ {s : State} {front : List (Option Response)}, s.safe = true → s.noReset = true →
      s.entry :: s.pipe = front ++ back →
      ∃ (t : State) (new : List (Option Response)),
        Sys2Proof.core.run back.length s = .next t ∧ t.entry :: t.pipe = new ++ front ∧
        t.responses = s.responses ++ back.reverse.filterMap id := by
  induction back using List.reverseRecOn with
  | nil =>
    intro s front _ _ hp
    rw [List.append_nil] at hp
    exact ⟨s, [], rfl, hp, (List.append_nil _).symm⟩
  | append_singleton back last ih =>
    intro s front hsafe hno hp
    have hs := step_of_safe hsafe hno
    have hmove : pipeAfter s.entry s.pipe = front ++ back ∧ pipeOutput s.entry s.pipe = last := by
      rw [← pipeAfter_append_pipeOutput, ← List.append_assoc] at hp
      exact List.append_singleton_inj.mp hp
    obtain ⟨hafter, hout⟩ := hmove
    have hp' : (s.clock s.entry).entry :: (s.clock s.entry).pipe =
        ((s.clock s.entry).entry :: front) ++ back :=
      congrArg _ hafter
    obtain ⟨t, new, hrun, hpipe, hresp⟩ := ih (safe_of_step hsafe hs) (noReset_of_step hno hs) hp'
    refine ⟨t, new ++ [(s.clock s.entry).entry], ?_, ?_, ?_⟩
    · rw [List.length_append, List.length_singleton, run_succ_of_step Sys2Proof.core _ hs, hrun]
    · rw [hpipe, List.append_assoc, List.singleton_append]
    · rw [hresp, State.clock_responses, hout]
      cases last <;> simp

/-- In safe use without reset `LATENCY` steps deliver all that is in flight, and the next delivers what
enters now (rules R91, R96). -/
theorem run_latency {s t : State} (hsafe : s.safe = true) (hno : s.noReset = true)
    (h : Sys2Proof.core.run s.latency s = .next t) :
    t.responses = s.responses ++ s.inFlight ∧
      (t.clock t.entry).responses = t.responses ++ s.entry.toList := by
  obtain ⟨t', new, hrun, hpipe, hresp⟩ := run_drains s.pipe (front := [s.entry]) hsafe hno rfl
  rw [State.latency, hrun] at h
  injection h with h
  subst h
  refine ⟨hresp, ?_⟩
  rw [State.clock_responses, pipeOutput, hpipe, List.getLastD_concat]

/-! ### Programs -/

/-- The request of an instruction is answered with its response (rule R7). -/
@[simp] theorem requestResponse_request (i : Instr) :
    requestResponse i.request = some (responseOf i) :=
  requestResponse_of_decodes ((decodeRequest_eq_ok_iff _ _).mpr rfl)

/-- An instruction's request is a legal one (rule R34). -/
theorem request_legal (i : Instr) : i.request.legal = true := by
  cases i <;> rfl

/-- A program presents its requests, in order (rule R38). -/
@[simp] theorem State.withProgram_presented (n : Nat) (qs : List Request) :
    (State.withProgram n qs).presented = qs := by
  cases qs with
  | nil => rfl
  | cons q qs =>
    simp [State.presented, State.inputs, State.withProgram, List.filterMap_map, Function.comp_def]

/-- Presenting a program does not change `LATENCY`. -/
theorem State.withProgram_latency (n : Nat) (qs : List Request) :
    (State.withProgram n qs).latency = n :=
  List.length_replicate

/-- A program takes as many port values as it has requests; afterwards nothing is presented. -/
theorem State.withProgram_inputs_drop (n : Nat) (qs : List Request) :
    ((State.withProgram n qs).inputs.drop qs.length).filterMap
      (fun p => if p.reqValid then some p.req else none) = [] := by
  cases qs with
  | nil => rfl
  | cons q qs =>
    have hdrop : (qs.map Ports.present).drop qs.length = [] := List.drop_of_length_le (by simp)
    simp [State.inputs, State.withProgram, hdrop]

/-- What holds of idle ports and of each request presented holds of all inputs. -/
theorem State.withProgram_inputs_all {p : Ports → Bool} (n : Nat) {qs : List Request}
    (hidle : p Ports.idle = true) (h : ∀ q ∈ qs, p (Ports.present q) = true) :
    (State.withProgram n qs).inputs.all p = true := by
  cases qs with
  | nil => simp [State.inputs, State.withProgram, hidle]
  | cons q qs => simpa [State.inputs, State.withProgram, List.all_eq_true] using h

/-- A program of instructions is safe use, without reset. -/
theorem State.withProgram_safe_noReset (n : Nat) (program : List Instr) :
    (State.withProgram n (program.map Instr.request)).safe = true ∧
      (State.withProgram n (program.map Instr.request)).noReset = true := by
  have hlegal : ∀ q ∈ program.map Instr.request, q.legal = true := by
    intro q hq
    obtain ⟨i, -, rfl⟩ := List.mem_map.mp hq
    exact request_legal i
  constructor
  · refine State.withProgram_inputs_all n (by simp [Ports.safe]) fun q hq => ?_
    simp [Ports.safe, hlegal q hq]
  · exact State.withProgram_inputs_all n (by simp) fun q _ => by simp

/-- A program of instructions expects their responses. -/
theorem State.withProgram_expected (n : Nat) (program : List Instr) :
    (State.withProgram n (program.map Instr.request)).expected = program.map responseOf := by
  have hflight : (State.withProgram n (program.map Instr.request)).inFlight = [] :=
    State.powerUp_inFlight n
  have hresp : (State.withProgram n (program.map Instr.request)).responses = [] := rfl
  rw [State.expected, hflight, hresp, State.withProgram_presented, List.filterMap_map]
  simp

/-- The result of a program of instructions (rule R93). -/
theorem programResponses_map_request (program : List Instr) :
    programResponses (program.map Instr.request) = some (program.map responseOf) := by
  induction program with
  | nil => rfl
  | cons i program ih =>
    rw [programResponses] at ih
    rw [programResponses, List.map_cons, List.mapM_cons, requestResponse_request, ih]
    rfl

end Sys2Proof.Machine
end

section
/-! SUPPORT. The whole-machine statements (rules R90 to R97), settled. -/

namespace Sys2Proof.Laws

open Sys2Proof.Machine

/-- Settles O18: the request accepted now has a defined code, and those to come are the rest of the
host's list. -/
theorem safeUseNeverStops : Obligations.SafeUseNeverStops := by
  intro s hsafe
  obtain ⟨t, ht⟩ := exists_step_of_safe hsafe
  exact ⟨t, ht, safe_of_step hsafe ht⟩

/-- Settles O20: an edge outside reset moves the response of the request presented from what is to come
into what is in flight, and what is due from there to the host. -/
theorem expectedResponsesAreConserved : Obligations.ExpectedResponsesAreConserved := by
  rintro result s t ⟨hno, hexp⟩ h
  exact ⟨noReset_of_step hno h, (expected_of_step hno h).trans hexp⟩

/-- Settles O22: the one response an edge adds is that of the request presented; a reset edge adds
none. -/
theorem everyResponseAnswersAGivenInstruction : Obligations.EveryResponseAnswersAGivenInstruction := by
  intro given s t hresp hpres h
  obtain ⟨-, -, rfl⟩ | ⟨-, -, rfl⟩ := eq_resetEdge_or_clock_of_step h
  · refine ⟨fun x hx => hresp x ?_, fun q hq => hpres q (State.mem_presented_of_advanceHost hq)⟩
    rw [State.resetEdge_inFlight, List.append_nil] at hx
    exact List.mem_append_left _ hx
  · refine ⟨fun x hx => ?_, fun q hq => hpres q (State.mem_presented_of_advanceHost hq)⟩
    rw [State.clock_responses_append_inFlight] at hx
    obtain hold | hnew := List.mem_append.mp hx
    · exact hresp x hold
    · obtain ⟨i, hq, hd, rfl⟩ := exists_decodes_of_entry (Option.mem_toList.mp hnew)
      exact ⟨i, hpres _ hq i hd, rfl⟩

/-- Settles O23: an edge moves the stages on and a reset edge clears them; neither changes their
number. -/
theorem latencyNeverChanges : Obligations.LatencyNeverChanges := by
  rintro n s t rfl h
  exact (inputs_and_latency_of_step h).2

/-- Settles O24: an edge hands over what leaves the pipeline, one stage at most. -/
theorem receivedResponsesAreKept : Obligations.ReceivedResponsesAreKept := by
  intro s t h
  obtain ⟨-, -, rfl⟩ | ⟨-, -, rfl⟩ := eq_resetEdge_or_clock_of_step h
  · exact ⟨[], (List.append_nil _).symm, Nat.zero_le _⟩
  · refine ⟨_, State.clock_responses _ s, ?_⟩
    cases pipeOutput s.entry s.pipe <;> simp

/-- Settles O25: the entry and the stages behind it are one queue, of which each step delivers the last
place; after `LATENCY` steps the response that enters now is in that place. -/
theorem responseComesAfterLatencySteps : Obligations.ResponseComesAfterLatencySteps := by
  intro s i hsafe hno hv hd
  obtain ⟨t, hrun⟩ := exists_run_of_safe s.latency hsafe
  have hsafe' := inv_of_run (fun _ _ => safe_of_step) hsafe hrun
  have hno' := inv_of_run (fun _ _ => noReset_of_step) hno hrun
  obtain ⟨hresp, hnext⟩ := run_latency hsafe hno hrun
  rw [State.entry_of_decodes hv hd] at hnext
  exact ⟨t, _, hrun, hresp, step_of_safe hsafe' hno', hnext⟩

/-- Settles O26: the program is presented in as many steps as it has requests, and `LATENCY` more
deliver what is in flight; what the host expects is the same all the time. -/
theorem programResultIsTheResponseList : Obligations.ProgramResultIsTheResponseList := by
  intro n program
  obtain ⟨hsafe, hno⟩ := State.withProgram_safe_noReset n program
  have hexp := State.withProgram_expected n program
  obtain ⟨m, hm⟩ := exists_run_of_safe program.length hsafe
  have hsafe' : m.safe = true := inv_of_run (fun _ _ => safe_of_step) hsafe hm
  have hkeeps := expectedResponsesAreConserved (program.map responseOf)
  obtain ⟨hno', hexp'⟩ := inv_of_run hkeeps ⟨hno, hexp⟩ hm
  have hlat : m.latency = n :=
    inv_of_run (latencyNeverChanges n) (State.withProgram_latency n _) hm
  have hpres : m.presented = [] := by
    have hdrop := State.withProgram_inputs_drop n (program.map Instr.request)
    rw [List.length_map] at hdrop
    rw [presented_of_run hm, hdrop]
  obtain ⟨t, ht⟩ := exists_run_of_safe n hsafe'
  obtain ⟨-, hexp''⟩ := inv_of_run hkeeps ⟨hno', hexp'⟩ ht
  have hresp : t.responses = program.map responseOf := by
    subst hlat
    rw [(run_latency hsafe' hno' ht).1, ← hexp', State.expected, hpres, List.filterMap_nil,
      List.append_nil]
  refine ⟨t, run_add hm ht, hresp, ?_, programResponses_map_request program⟩
  rw [State.expected, hresp, List.append_assoc, List.append_right_eq_self] at hexp''
  exact (List.append_eq_nil_iff.mp hexp'').1

/-- Settles O19: the idle ports present nothing and assert no reset. -/
theorem powerUpIsSafeUse : Obligations.PowerUpIsSafeUse := by
  have hpower (n : Nat) : (State.powerUp n).safe = true ∧ (State.powerUp n).noReset = true :=
    State.withProgram_safe_noReset n []
  exact ⟨(hpower _).1, hpower⟩

/-- Settles O21: nothing is received or in flight, and the idle ports present nothing. -/
theorem resetExpectsNothing : Obligations.ResetExpectsNothing := by
  have hpower (n : Nat) : (State.powerUp n).expected = [] ∧ (State.powerUp n).presented = [] :=
    ⟨State.withProgram_expected n [], State.withProgram_presented n []⟩
  obtain ⟨hexp, hpres⟩ := hpower Config.latencyReference
  exact ⟨(powerUpIsSafeUse.2 _).2, hexp, hpres, hpower⟩

/-- Settles O28: the reference machine has no stage and idles; every other one has only empty stages. -/
theorem stateAfterReset : Obligations.StateAfterReset := by
  have hvalid (n : Nat) : (State.powerUp n).rspValid = false := by
    cases n with
    | zero => exact State.rspValid_of_pipe_nil rfl
    | succ n =>
      rw [State.rspValid_of_pipe_concat (List.replicate_succ' : List.replicate (n + 1) none = _)]
      rfl
  exact ⟨rfl, hvalid _, rfl, rfl, step_of_idle (.inl rfl) rfl, fun n =>
    ⟨List.length_replicate, hvalid n, State.powerUp_inFlight n, fun _ => List.eq_of_mem_replicate⟩⟩

end Sys2Proof.Laws
end

section
/-! SUPPORT. Rows of several blocks (rule R88(a)). -/

namespace Sys2Proof.Machine

/-- A step at place `k` puts there where that block's own step leads. Where the row has no place `k`,
any state put there leaves the row as it is (rule R88(a)). -/
theorem stepInstance_eq_next_iff (k : Nat) (row row' : List State) :
    stepInstance k row = .next row' ↔
      ∃ t, (∀ s, row[k]? = some s → step s = .next t) ∧ row' = row.set k t := by
  unfold stepInstance
  have : Nonempty State := ⟨State.reset⟩
  cases hk : row[k]? with
  | none =>
    have hset (t : State) : row.set k t = row :=
      List.set_eq_of_length_le (List.getElem?_eq_none_iff.mp hk)
    simp only [hset, reduceCtorEq, false_implies, implies_true, true_and, exists_const,
      Host.Outcome.next.injEq]
    exact eq_comm
  | some s =>
    cases hs : step s <;> simp [hs, eq_comm]

/-- Two steps of a row are one after the other. -/
theorem runInstances_pair_iff (j k : Nat) (row row' : List State) :
    runInstances [j, k] row = .next row' ↔
      ∃ mid, stepInstance j row = .next mid ∧ stepInstance k mid = .next row' := by
  cases hj : stepInstance j row with
  | next mid => cases hk : stepInstance k mid <;> simp [runInstances, hj, hk]
  | fault r => simp [runInstances, hj]
  | refused r => simp [runInstances, hj]

end Sys2Proof.Machine
end

section
/-! SUPPORT. The statements about rows of several blocks (rule R88(a)), settled. -/

namespace Sys2Proof.Laws

open Sys2Proof.Machine

/-- Settles O29: a step at place `k` replaces that place of the row. -/
theorem instancesShareNothing : Obligations.InstancesShareNothing := by
  intro k row row' h
  obtain ⟨t, ht, rfl⟩ := (stepInstance_eq_next_iff k row row').mp h
  refine ⟨List.length_set, fun j hj => List.getElem?_set_ne hj.symm, fun s hs => ⟨t, ht s hs, ?_⟩⟩
  obtain ⟨hlt, -⟩ := List.getElem?_eq_some_iff.mp hs
  exact List.getElem?_set_self hlt

/-- Settles O30: each of the two blocks makes the step it makes in the given row, since the other
leaves its place alone, and the two places are different. -/
theorem instanceOrderIsUnobservable : Obligations.InstanceOrderIsUnobservable := by
  intro j k row row' hjk h
  obtain ⟨mid, hj, hk⟩ := (runInstances_pair_iff j k row row').mp h
  obtain ⟨tj, htj, rfl⟩ := (stepInstance_eq_next_iff j row mid).mp hj
  obtain ⟨tk, htk, rfl⟩ := (stepInstance_eq_next_iff k _ row').mp hk
  rw [List.getElem?_set_ne hjk] at htk
  refine (runInstances_pair_iff k j row _).mpr ⟨row.set k tk,
    (stepInstance_eq_next_iff k row _).mpr ⟨tk, htk, rfl⟩,
    (stepInstance_eq_next_iff j _ _).mpr ⟨tj, ?_, List.set_comm tj tk hjk⟩⟩
  rwa [List.getElem?_set_ne hjk.symm]

end Sys2Proof.Laws
end

section
/-! SUPPORT. The remaining facts about the responses: the flag on its wire, the operands of an overflow,
and `MULO32` beside `MULO64` (rules R35, R36, R61 to R66). -/

namespace Sys2Proof.Machine

/-- A truth value on one wire (rule R36). -/
theorem ofBool_decide (p : Prop) [Decidable p] :
    BitVec.ofBool (decide p) = if p then 1#1 else 0#1 := by
  by_cases h : p <;> simp [h]

/-- An overflow has neither 0 nor 1 as its first operand, and -1 only beside the minimum. -/
theorem left_operand_of_overflows {W : Nat} (hW : 2 ≤ W) {a b : BitVec W} (h : overflows a b = true) :
    a.toInt ≠ 0 ∧ a.toInt ≠ 1 ∧ (a.toInt = -1 → b.toInt = Config.minInt W) := by
  have hpos : 0 < W := by omega
  by_cases hb : b = Config.minPattern W
  · subst hb
    rw [overflows_minPattern_right a hW, bne_zero_and_bne_one_iff hW] at h
    obtain ⟨hzero, hone⟩ := h
    exact ⟨hzero, hone, fun _ => minPattern_toInt hpos⟩
  · have hlarge : ¬ a.toInt.natAbs < 2 := by
      intro hsmall
      rw [overflows_eq_false_of_small_left a b hpos hb hsmall] at h
      cases h
    exact ⟨by omega, by omega, by omega⟩

/-- The product of two 32-bit operands is in the 64-bit range. -/
theorem overflows_placeResult32 (p q : HalfWord) :
    overflows (placeResult32 p) (placeResult32 q) = false := by
  have hle (x : HalfWord) : x.toInt.natAbs ≤ 2 ^ 31 := by
    have hlo := BitVec.le_toInt x
    have hhi := BitVec.toInt_lt (x := x)
    omega
  apply overflows_eq_false_of_natAbs_lt
  rw [placeResult32_toInt, placeResult32_toInt, Int.natAbs_mul]
  exact Nat.lt_of_le_of_lt (Nat.mul_le_mul (hle p) (hle q)) (by decide)

/-- The result of `MULO64` on sign-extended 32-bit operands is their exact product. -/
theorem mulo64Response_placeResult32_toInt (p q : HalfWord) :
    (mulo64Response (placeResult32 p) (placeResult32 q)).r.toInt = p.toInt * q.toInt := by
  rw [← placeResult32_toInt p, ← placeResult32_toInt q]
  exact wrappingProduct_toInt_of_not_overflows _ _ (by decide) (overflows_placeResult32 p q)

/-- The flag is clear exactly when the wrapping product is the exact one (rule R61). -/
theorem overflows_eq_false_iff_wrappingProduct {W : Nat} (hW : 0 < W) (a b : BitVec W) :
    overflows a b = false ↔ (wrappingProduct a b).toInt = a.toInt * b.toInt := by
  refine ⟨wrappingProduct_toInt_of_not_overflows a b hW, fun h => ?_⟩
  rw [overflows_eq_false_iff, ← h]
  exact ⟨BitVec.le_toInt _, Int.le_sub_one_of_lt BitVec.toInt_lt⟩

end Sys2Proof.Machine
end

section
/-! SUPPORT. The remaining statements about the responses (rules R35, R36, R44, R63 to R70), settled. -/

namespace Sys2Proof.Laws

open Sys2Proof.Machine

/-- Settles O34: the recombination modulo `2^64`, read off in its two halves. -/
theorem topLevelRecombination : Obligations.TopLevelRecombination := by
  refine ⟨?_, by decide⟩
  rintro a b P X hP rfl
  have hPlt : P < 2 ^ 64 := by
    have ha : a.toNat % 2 ^ 32 < 2 ^ 32 := Nat.mod_lt _ (by decide)
    have hb : b.toNat % 2 ^ 32 < 2 ^ 32 := Nat.mod_lt _ (by decide)
    calc P = (a.toNat % 2 ^ 32) * (b.toNat % 2 ^ 32) := hP
      _ < 2 ^ 32 * 2 ^ 32 := Nat.mul_lt_mul'' ha hb
  have hr := mul_mod_eq_recombination a.toNat b.toNat
  rw [← hP, ← BitVec.toNat_mul, ← wmul64Response_r] at hr
  refine ⟨hPlt, hr, ?_, ?_⟩
  · rw [BitVec.extractLsb'_toNat, hr, Nat.shiftRight_zero]
    omega
  · rw [BitVec.extractLsb'_toNat, hr, Nat.shiftRight_eq_div_pow]
    omega

/-- Settles O40: the cases are those in which the steps decide, and the flag in each was computed with
the algorithm (O38). -/
theorem eachStepAnswersItsCase : Obligations.EachStepAnswersItsCase := by
  intro W a b hWidth
  have hW : 2 ≤ W := by omega
  have hpos : 0 < W := by omega
  refine ⟨?aIsMin, ?bIsMin, fun ha hb => ⟨?small, ?sameSign, ?differentSigns⟩⟩
  case aIsMin =>
    rintro rfl
    exact ⟨flagStep_eq_of_decides hW (s := .aIsMin) rfl, overflows_minPattern_left b hW⟩
  case bIsMin =>
    rintro ha rfl
    exact ⟨flagStep_eq_of_decides hW (s := .bIsMin) ⟨ha, rfl⟩, overflows_minPattern_right a hW⟩
  case small =>
    intro hsmall
    exact ⟨flagStep_eq_of_decides hW (s := .small) ⟨ha, hb, hsmall⟩,
      overflows_eq_false_of_small a b hpos ha hb hsmall⟩
  case sameSign =>
    intro hma hmb hsign
    have hprod : 0 < a.toInt.natAbs * b.toInt.natAbs := Nat.mul_pos (by omega) (by omega)
    refine ⟨flagStep_eq_of_decides hW (s := .sameSign) ⟨ha, hb, hma, hmb, hsign⟩, ?_,
      overflows_of_sameSign hmb hsign⟩
    rw [mul_eq_natAbs_mul_natAbs hsign]
    exact Int.natCast_pos.mpr hprod
  case differentSigns =>
    intro hma hmb hsign
    have hprod : 0 < a.toInt.natAbs * b.toInt.natAbs := Nat.mul_pos (by omega) (by omega)
    refine ⟨flagStep_eq_of_decides hW (s := .differentSigns) ⟨ha, hb, hma, hmb, hsign⟩, ?_,
      overflows_of_differentSigns hmb hsign⟩
    rw [mul_eq_neg_natAbs_mul_natAbs hsign]
    exact Int.neg_neg_of_pos (Int.natCast_pos.mpr hprod)

/-- Settles O42: the response depends on the low halves alone. -/
theorem mulo32IgnoresUpperHalves : Obligations.Mulo32IgnoresUpperHalves := by
  intro a a' b b' ha hb
  refine ⟨fun s => ?_, ?_⟩
  · rw [exec_eq_next, exec_eq_next, responseOf, responseOf, mulo32Response_congr ha hb]
  · rw [mulo32Response, placeResult32_lowHalf, placeResult32]

/-- Settles O44: both products, unsigned and signed, commute. -/
theorem responsesCommute : Obligations.ResponsesCommute := by
  intro o a b
  cases o
  case wmul64 => exact wmul64Response_comm a b
  case mulo32 =>
    show mulo32Response a b = mulo32Response b a
    rw [mulo32Response, mulo32Response, wrappingProduct_comm, overflows_comm]
  case mulo64 =>
    show mulo64Response a b = mulo64Response b a
    rw [mulo64Response, mulo64Response, wrappingProduct_comm, overflows_comm]

/-- Settles O45: the 64-bit result is the exact product, and the 32-bit one is that exactly without
overflow. -/
theorem narrowOverflowSeenInSixtyFourBits : Obligations.NarrowOverflowSeenInSixtyFourBits := by
  intro a b x y hx hy
  obtain rfl : x = placeResult32 (operand32 a) := hx
  obtain rfl : y = placeResult32 (operand32 b) := hy
  refine ⟨overflows_placeResult32 _ _, ?_⟩
  have hr : (mulo32Response a b).r.toInt = (wrappingProduct (operand32 a) (operand32 b)).toInt :=
    placeResult32_toInt _
  rw [← BitVec.toInt_inj, hr, mulo64Response_placeResult32_toInt, eq_comm (b := BitVec.toInt _)]
  exact overflows_eq_false_iff_wrappingProduct (by decide) _ _

/-- Settles O46: a magnitude below 2 overflows only beside the minimum, and the flag is the same for
exchanged operands. -/
theorem overflowOperandsAreNotSmall : Obligations.OverflowOperandsAreNotSmall := by
  intro W a b hWidth h
  have hW : 2 ≤ W := by omega
  obtain ⟨ha0, ha1, hmin⟩ := left_operand_of_overflows hW h
  obtain ⟨hb0, hb1, hmin'⟩ := left_operand_of_overflows hW ((overflows_comm b a).trans h)
  exact ⟨ha0, ha1, hb0, hb1, hmin, hmin'⟩

/-- Settles O47: bit 64 is the flag of the response. -/
theorem flagBitOfTheResponseWord : Obligations.FlagBitOfTheResponseWord := by
  intro a b
  rw [Response.word_flagBit, Response.word_flagBit, Response.word_flagBit, responseOf, responseOf,
    responseOf, mulo32Response_eq a b rfl, mulo64Response_eq a b rfl]
  exact ⟨rfl, ofBool_decide _, ofBool_decide _⟩

end Sys2Proof.Laws
end

section
/-! SUPPORT. What the assembler accepts and the fields it emits (rules R35, R37). -/

namespace Sys2Proof.Machine

/-- The two written forms are the same operation and two words (rule R37). -/
theorem assembleTokens_mnemonic (m a b : List Char) :
    assembleTokens [.word m, .word a, .comma, .word b] = assembleWords (opOfMnemonic m) a b := rfl

theorem assembleTokens_call (m a b : List Char) :
    assembleTokens [.word m, .lparen, .word a, .comma, .word b, .rparen] =
      assembleWords (opOfCall m) a b := rfl

/-- Two words assemble only as two literals of an operation. -/
theorem exists_assemble_of_assembleWords {o : Option Op} {a b : List Char} {i : Instr}
    (h : assembleWords o a b = some i) : ∃ o la lb, assemble o la lb = some i := by
  unfold assembleWords at h
  split at h
  · next o la lb _ _ => exact ⟨o, la, lb, h⟩
  · cases h

/-- A line assembles only as an operation and two literals. -/
theorem exists_assemble_of_assembleLine {line : List Char} {i : Instr}
    (h : assembleLine line = some i) : ∃ o la lb, assemble o la lb = some i := by
  unfold assembleLine assembleTokens at h
  split at h
  · exact exists_assemble_of_assembleWords h
  · exact exists_assemble_of_assembleWords h
  · cases h

/-- A 32-bit value on its port is in the canonical form of a `MULO32` operand (rule R35). -/
theorem isSignExtended_placeResult32 (p : HalfWord) : Word.isSignExtended (placeResult32 p) = true := by
  rw [Word.isSignExtended, placeResult32_lowHalf, beq_iff_eq, placeResult32]

/-- A `MULO32` literal is placed as a 32-bit value (rule R37). -/
theorem literalField_mulo32_isSignExtended (l : Literal) :
    Word.isSignExtended (literalField .mulo32 l) = true := by
  cases l
  case int n => exact isSignExtended_placeResult32 (BitVec.ofInt 32 n)
  case pattern n => exact isSignExtended_placeResult32 (BitVec.ofNat 32 n)

/-- The assembler emits the canonical form (rule R37). -/
theorem canonical_of_assemble {o : Op} {la lb : Literal} {i : Instr} (h : assemble o la lb = some i) :
    i.canonical = true := by
  obtain ⟨-, -, rfl⟩ := (assemble_eq_some_iff o la lb i).mp h
  cases o
  case wmul64 => rfl
  case mulo32 =>
    exact Bool.and_eq_true_iff.mpr
      ⟨literalField_mulo32_isSignExtended la, literalField_mulo32_isSignExtended lb⟩
  case mulo64 => rfl

/-- A literal assembles exactly when it is of the operation's type (rule R37). -/
theorem exists_assembleOperand_iff (o : Op) (l : Literal) :
    (∃ w, assembleOperand o l = some w) ↔ literalInType o l = true := by
  simp only [assembleOperand_eq_some_iff, exists_and_left, exists_eq', and_true]

/-- The operand type of `WMUL64` (rule R37). -/
theorem literalInType_wmul64_int (n : Int) :
    literalInType .wmul64 (.int n) = true ↔ 0 ≤ n ∧ n ≤ 2 ^ 64 - 1 := by
  rw [literalInType, Bool.and_eq_true, decide_eq_true_iff, decide_eq_true_iff, Int.le_sub_one_iff]

/-- The operand types of the checked multiplies (rule R37). -/
theorem literalInType_mulo64_int (n : Int) :
    literalInType .mulo64 (.int n) = true ↔ -2 ^ 63 ≤ n ∧ n ≤ 2 ^ 63 - 1 := by
  rw [literalInType, Bool.and_eq_true, decide_eq_true_iff, decide_eq_true_iff]
  rfl

theorem literalInType_mulo32_int (n : Int) :
    literalInType .mulo32 (.int n) = true ↔ -2 ^ 31 ≤ n ∧ n ≤ 2 ^ 31 - 1 := by
  rw [literalInType, Bool.and_eq_true, decide_eq_true_iff, decide_eq_true_iff]
  rfl

/-- An integer of the unsigned 64-bit type keeps its value as a word. -/
theorem ofInt_toNat_of_mem_range {n : Int} (h : 0 ≤ n ∧ n ≤ 2 ^ 64 - 1) :
    ((BitVec.ofInt 64 n).toNat : Int) = n := by
  rw [BitVec.toNat_ofInt]
  omega

/-- An integer of a signed type keeps its value as a word. -/
theorem ofInt_toInt_of_mem_range {W : Nat} (hW : 0 < W) {n : Int}
    (h : -2 ^ (W - 1) ≤ n ∧ n ≤ 2 ^ (W - 1) - 1) : (BitVec.ofInt W n).toInt = n :=
  BitVec.toInt_ofInt_eq_self hW h.1 (Int.lt_of_le_sub_one h.2)

end Sys2Proof.Machine
end

section
/-! SUPPORT. The statements about the written form (rules R35, R37), settled. -/

namespace Sys2Proof.Laws

open Sys2Proof.Machine

/-- Settles O48: a line assembles only through `assemble`, which places 32-bit values. -/
theorem assembledLinesAreCanonical : Obligations.AssembledLinesAreCanonical := by
  intro line i h
  obtain ⟨o, la, lb, hi⟩ := exists_assemble_of_assembleLine h
  exact canonical_of_assemble hi

/-- Settles O49: each literal is accepted in its type, where its field does not wrap. -/
theorem integerLiteralsKeepTheirValue : Obligations.IntegerLiteralsKeepTheirValue := by
  refine ⟨fun n => ?integers, fun n => ?patterns, by decide, by decide⟩
  case integers =>
    refine ⟨(exists_assembleOperand_iff _ _).trans (literalInType_wmul64_int n),
      (exists_assembleOperand_iff _ _).trans (literalInType_mulo64_int n),
      (exists_assembleOperand_iff _ _).trans (literalInType_mulo32_int n),
      fun w => ⟨fun h => ?wmul64, fun h => ?mulo64, fun h => ?mulo32⟩⟩
    all_goals obtain ⟨htype, rfl⟩ := (assembleOperand_eq_some_iff _ _ w).mp h
    case wmul64 => exact ofInt_toNat_of_mem_range ((literalInType_wmul64_int n).mp htype)
    case mulo64 =>
      exact ofInt_toInt_of_mem_range (by decide) ((literalInType_mulo64_int n).mp htype)
    case mulo32 =>
      exact (placeResult32_toInt _).trans
        (ofInt_toInt_of_mem_range (by decide) ((literalInType_mulo32_int n).mp htype))
  case patterns =>
    refine ⟨(exists_assembleOperand_iff _ _).trans decide_eq_true_iff,
      (exists_assembleOperand_iff _ _).trans decide_eq_true_iff,
      (exists_assembleOperand_iff _ _).trans decide_eq_true_iff,
      fun w => ⟨fun h => ?wmul64, fun h => ?mulo64, fun h => ?mulo32⟩⟩
    all_goals
      obtain ⟨htype, rfl⟩ := (assembleOperand_eq_some_iff _ _ w).mp h
      have hlt := of_decide_eq_true htype
    case wmul64 => exact (BitVec.toNat_ofNat n 64).trans (Nat.mod_eq_of_lt hlt)
    case mulo64 => exact (BitVec.toNat_ofNat n 64).trans (Nat.mod_eq_of_lt hlt)
    case mulo32 =>
      have hlow : (literalField .mulo32 (.pattern n)).extractLsb' 0 32 = BitVec.ofNat 32 n :=
        placeResult32_lowHalf _
      rw [hlow]
      exact ⟨(BitVec.toNat_ofNat n 32).trans (Nat.mod_eq_of_lt hlt), rfl⟩

/-- Settles O50: both forms are the operation's name and the two words. -/
theorem bothWrittenFormsAgree : Obligations.BothWrittenFormsAgree := by
  intro o mnemonic call a b hm hc
  rw [assembleTokens_mnemonic, assembleTokens_call, hm, hc]

end Sys2Proof.Laws
end
